-- ==== Sys2Proof/Word.lean ====
section
/-! DEFINITION. The word types of the Control Link and the ports, the identifier types of the part, and
fixed-length tables (a vector read and written at a bounded index). -/

namespace Sys2Proof

/-- A byte of the Control Link (spec 12, Field encodings). -/
abbrev Byte := BitVec 8

/-- A two-byte field, most significant byte first on the link. -/
abbrev Half := BitVec 16

/-- One 24-bit two's complement audio sample as a TDM slot holds it (R136). -/
abbrev Sample := BitVec 24

/-- A set of zones: zone z is bit z (spec 12, zone set). -/
abbrev ZoneSet := BitVec 24

/-- A source, 0 to 15. -/
abbrev Source := Fin 16

/-- A zone, 0 to 23. -/
abbrev Zone := Fin 24

/-- A station, 0 to 31. -/
abbrev StationId := Fin 32

/-- An area, 0 to 7; area 0 is the nave. -/
abbrev AreaId := Fin 8

/-- A service, 0 to 7; service 0 is the main service. -/
abbrev Service := Fin 8

/-- A Cue Line, 0 to 7. -/
abbrev Line := Fin 8

/-- A notch or ring band, 0 to 207. -/
abbrev Band := Fin 208

/-- One of the 16 notch sections of a channel (R114). -/
abbrev SectionSlot := Fin 16

/-- A feed is named by its owner and its zone (spec 02, The Feed Pool). -/
abbrev FeedKey := Source × Zone

/-- The table whose entry at `i` is `f i`. -/
def vgen {α : Type} {n : Nat} (f : Fin n → α) : Vector α n :=
  ⟨((List.finRange n).map f).toArray, by simp⟩

/-- The entry of a table at an index. -/
def vget {α : Type} {n : Nat} (v : Vector α n) (i : Fin n) : α := v[i.val]

/-- A table with one entry replaced. -/
def vset {α : Type} {n : Nat} (v : Vector α n) (i : Fin n) (x : α) : Vector α n := v.set i.val x

@[simp] theorem vget_vgen {α : Type} {n : Nat} (f : Fin n → α) (i : Fin n) : vget (vgen f) i = f i := by
  simp [vget, vgen]

@[simp] theorem vget_vset_same {α : Type} {n : Nat} (v : Vector α n) (i : Fin n) (x : α) :
    vget (vset v i x) i = x := by
  simp [vget, vset]

theorem vget_vset {α : Type} {n : Nat} (v : Vector α n) (i j : Fin n) (x : α) :
    vget (vset v i x) j = if i = j then x else vget v j := by
  simp [vget, vset, Vector.getElem_set, Fin.ext_iff]

theorem vget_vset_other {α : Type} {n : Nat} (v : Vector α n) {i j : Fin n} (x : α) (h : i ≠ j) :
    vget (vset v i x) j = vget v j := by
  simp [vget_vset, h]

/-- Two tables with equal entries are equal. -/
theorem vext {α : Type} {n : Nat} {v w : Vector α n} (h : ∀ i, vget v i = vget w i) : v = w := by
  apply Vector.ext
  intro i hi
  exact h ⟨i, hi⟩

@[simp] theorem vset_vget_self {α : Type} {n : Nat} (v : Vector α n) (i : Fin n) : vset v i (vget v i) = v := by
  apply vext
  intro j
  rw [vget_vset]
  split
  · next h => rw [h]
  · rfl

/-- Every source, ascending. -/
def allSources : List Source := List.finRange 16

/-- Every zone, ascending. -/
def allZones : List Zone := List.finRange 24

/-- Every Cue Line, ascending. -/
def allLines : List Line := List.finRange 8

/-- Every area, ascending. -/
def allAreas : List AreaId := List.finRange 8

/-- Every notch section of a channel, ascending. -/
def allSlots : List SectionSlot := List.finRange 16

/-- Every band, ascending. -/
def allBands : List Band := List.finRange 208

/-- Every feed name, ascending by source and then by zone. -/
def allFeeds : List FeedKey := allSources.flatMap fun src => allZones.map fun z => (src, z)

end Sys2Proof
end

