-- ==== Sys2Proof/Syntax.lean ====
section
/-! DEFINITION. The commands of the LW2416, one constructor for each row of spec/opcode_table.json, with the
operands the row takes. A request carries its payload fields as the Control Link delivers them (spec 12, R168);
an event carries the source, zone, line, band or section it happens to, or what the pins show. -/

namespace Sys2Proof

/-- A position as three signed 16-bit coordinates (spec 12, position). -/
structure RawPoint where
  x : Half
  y : Half
  z : Half
deriving DecidableEq, Repr

/-- The payload of SET_ZONE (spec 12, Zone record). -/
structure ZonePayload where
  zone : Byte
  speaker : RawPoint
  listener : RawPoint
  area : Byte
  baseLevel : Half
  precedenceOffset : Byte
  latencyTrim : Half
  mute : Byte
deriving DecidableEq, Repr

/-- The payload of SET_TIMING (spec 12, Timing record). -/
structure TimingPayload where
  glideTime : Half
  fadeTime : Half
  fadeShape : Byte
  notchDecay : Half
  deadband : Byte
  debounce : Byte
deriving DecidableEq, Repr

/-- The payload of SET_SOURCE (spec 12, Source record). -/
structure SourcePayload where
  source : Byte
  trim : Half
  openThreshold : Half
  closeThreshold : Half
  holdTime : Half
  attackTime : Byte
  releaseTime : Half
  detectorEnable : Byte
  ringMargin : Byte
  persistence : Byte
deriving DecidableEq, Repr

/-- The payload of SET_CUE (spec 12, Cue record). -/
structure CuePayload where
  line : Byte
  edge : Byte
  action : Byte
  source : Byte
  station : Byte
  service : Byte
  level : Half
  gateMode : Byte
deriving DecidableEq, Repr

/-- The commands. A request is taken at the rise of chip select that ends its transaction (R148). -/
inductive Instr where
  /-- NOP (R153). -/
  | nop
  /-- IDENTIFY (R153). -/
  | identify
  /-- GET_CAUSE (R157). -/
  | getCause
  /-- ACK_EVENTS with the set of flags to clear (R158). -/
  | ackEvents (flags : Byte)
  /-- SET_EVENT_MASK with the new mask (R156). -/
  | setEventMask (mask : Byte)
  /-- STANDBY (R162). -/
  | standby
  /-- WAKE (R165). -/
  | wake
  /-- RESTART (R167). -/
  | restart
  /-- SET_CLOCK with a selection code (R140). -/
  | setClock (selection : Byte)
  /-- GET_CLOCK (R143). -/
  | getClock
  /-- SET_STATION (R2). -/
  | setStation (station : Byte) (position : RawPoint) (reach : ZoneSet)
  /-- GET_STATION (R5). -/
  | getStation (station : Byte)
  /-- CLEAR_STATION (R6). -/
  | clearStation (station : Byte)
  /-- SET_ZONE (R8). -/
  | setZone (payload : ZonePayload)
  /-- GET_ZONE (R12). -/
  | getZone (zone : Byte)
  /-- SET_AREA (R117). -/
  | setArea (area mode service : Byte)
  /-- GET_AREA (R126). -/
  | getArea (area : Byte)
  /-- SET_TEMPERATURE (R59). -/
  | setTemperature (temperature : Half)
  /-- GET_ALIGNMENT (R62). -/
  | getAlignment
  /-- SET_TIMING (R15, R16). -/
  | setTiming (payload : TimingPayload)
  /-- GET_TIMING (R17). -/
  | getTiming
  /-- PLACE (R30). -/
  | place (source station service : Byte) (level : Half)
  /-- MOVE (R33). -/
  | move (source station : Byte)
  /-- SET_LEVEL (R34). -/
  | setLevel (source : Byte) (level : Half)
  /-- RETIRE (R35). -/
  | retire (source : Byte)
  /-- GET_PLACEMENT (R38). -/
  | getPlacement (source : Byte)
  /-- FIND_AT_STATION (R39). -/
  | findAtStation (station : Byte)
  /-- GET_FEED (R40). -/
  | getFeed (source zone : Byte)
  /-- LIST_LIMITED (R42). -/
  | listLimited
  /-- GET_POOL (R41). -/
  | getPool
  /-- SET_SOURCE (R82). -/
  | setSource (payload : SourcePayload)
  /-- GET_SOURCE (R83). -/
  | getSource (source : Byte)
  /-- SET_GATE_MODE (R93). -/
  | setGateMode (source mode : Byte)
  /-- GET_METERS (R97). -/
  | getMeters
  /-- GET_ZONE_METERS (R147). -/
  | getZoneMeters
  /-- LIST_NOTCHES (R113). -/
  | listNotches (source : Byte)
  /-- ADD_NOTCH (R109). -/
  | addNotch (source band depth : Byte)
  /-- EDIT_NOTCH (R110). -/
  | editNotch (source band depth kind : Byte)
  /-- RETIRE_NOTCH (R111). -/
  | retireNotch (source band : Byte)
  /-- CLEAR_DYNAMIC (R112). -/
  | clearDynamic (source : Byte)
  /-- SET_CUE (R132). -/
  | setCue (payload : CuePayload)
  /-- GET_CUE_STATUS (R133). -/
  | getCueStatus
  /-- FRAME_REJECTED: chip select rises on the bytes received, and they fail a frame check (R149). -/
  | frameRejected (received : List Byte)
  /-- POWER_ON_RESET; bit l of the operand is the level at the pin of line l when the reset ends (R166, R135). -/
  | powerOnReset (cuePins : Byte)
  /-- RESET_PIN: the reset pin falls; where it is low already, it is released (R167; log 21). -/
  | resetPin
  /-- CLEARING; the operand as for POWER_ON_RESET (R167, R135). -/
  | clearing (cuePins : Byte)
  /-- DERIVATION of the feed at the head of the queue (R49). -/
  | derivation
  /-- GLIDE_COMPLETE of one feed (R67). -/
  | glideComplete (source : Source) (zone : Zone)
  /-- FADE_IN_COMPLETE of one feed (R71). -/
  | fadeInComplete (source : Source) (zone : Zone)
  /-- FADE_OUT_COMPLETE of one feed (R25, R72). -/
  | fadeOutComplete (source : Source) (zone : Zone)
  /-- AUDIO_FRAME; the operand is what stands in the 16 slots of the input frame (R136, R146). -/
  | audioFrame (input : Vector Sample 16)
  /-- BLOCK_EVALUATION of all channels (R85). -/
  | blockEvaluation
  /-- HOLD_EXPIRY of one gate (R88). -/
  | holdExpiry (source : Source)
  /-- OPENING_COMPLETE of one gate (R87). -/
  | openingComplete (source : Source)
  /-- CLOSING_COMPLETE of one gate (R89). -/
  | closingComplete (source : Source)
  /-- TRIM_RAMP_COMPLETE of one channel (R84). -/
  | trimRampComplete (source : Source)
  /-- WINDOW_END of all detectors (R100, R101). -/
  | windowEnd
  /-- RING_CANDIDATE: a detector hands a candidate of a band to its Notch Table (R101, R104 to R106). -/
  | ringCandidate (source : Source) (band : Band)
  /-- AGING_ADVANCE of all Notch Tables (R107). -/
  | agingAdvance
  /-- AGING_STEP of one notch (R107). -/
  | agingStep (source : Source) (band : Band)
  /-- SECTION_MOVEMENT_COMPLETE of one notch section (R114). -/
  | sectionMovementComplete (source : Source) (slot : SectionSlot)
  /-- GAIN_MOVEMENT_COMPLETE of one feed (R144). -/
  | gainMovementComplete (source : Source) (zone : Zone)
  /-- MUTE_RAMP_COMPLETE of one zone (R145). -/
  | muteRampComplete (zone : Zone)
  /-- DEBOUNCED_CHANGE of one Cue Line (R129). -/
  | debouncedChange (line : Line)
  /-- FRAME_SYNC_ARRIVAL; the operand is the interval, in frame periods, since the arrival that R138 measures from. -/
  | frameSyncArrival (interval : Rat)
  /-- MISSED_FRAME (R138). -/
  | missedFrame
  /-- PRESENCE_COUNT_FULL (R141). -/
  | presenceCountFull
  /-- LOCK_CHANGE (R141). -/
  | lockChange
  /-- CLOCK_LOSS (R142). -/
  | clockLoss
  /-- SWITCH_CHANGE (R139). -/
  | switchChange
  /-- SWITCH_COMPLETE (R139, R140). -/
  | switchComplete
  /-- STANDBY_ENTRY_COMPLETE (R163). -/
  | standbyEntryComplete
  /-- SERVICE_RAMP_COMPLETE (R161). -/
  | serviceRampComplete
  /-- TRANSACTION_START: the fall of chip select (R148). -/
  | transactionStart
  /-- CUE_PIN_SAMPLE; bit l of the operand is the level at the pin of line l (R128). -/
  | cuePinSample (pins : Byte)
deriving DecidableEq, Repr

end Sys2Proof
end

