-- ==== Sys2Proof/Decode.lean ====
section
/-! DEFINITION. Frames of the Control Link read as commands: the frame checks of R149, the command codes and payload
lengths of spec 12, and the payload layouts of its record section; beside them the frame a host sends for a request.
The opcode table gives its rows no bits, so `decodeTableWord` spells no command. -/

namespace Sys2Proof

/-- Why a frame is discarded (R149). -/
inductive FrameProblem where
  /-- Chip select rose before the whole frame arrived. -/
  | shortFrame
  /-- The command code names no request. -/
  | unknownRequest
  /-- The payload length is not the request's. -/
  | badLength
deriving DecidableEq, Repr

/-- The fixed payload length of each request by its command code (spec 12, Requests and payload lengths). -/
def requestLength (code : Nat) : Option Nat :=
  match code with
  | 0x00 => some 0
  | 0x01 => some 0
  | 0x02 => some 0
  | 0x03 => some 1
  | 0x04 => some 1
  | 0x05 => some 0
  | 0x06 => some 0
  | 0x07 => some 0
  | 0x08 => some 1
  | 0x09 => some 0
  | 0x10 => some 10
  | 0x11 => some 1
  | 0x12 => some 1
  | 0x13 => some 20
  | 0x14 => some 1
  | 0x15 => some 3
  | 0x16 => some 1
  | 0x18 => some 2
  | 0x19 => some 0
  | 0x1A => some 9
  | 0x1B => some 0
  | 0x20 => some 5
  | 0x21 => some 2
  | 0x22 => some 3
  | 0x23 => some 1
  | 0x24 => some 1
  | 0x25 => some 1
  | 0x26 => some 2
  | 0x27 => some 0
  | 0x28 => some 0
  | 0x30 => some 15
  | 0x31 => some 1
  | 0x32 => some 2
  | 0x33 => some 0
  | 0x34 => some 0
  | 0x38 => some 1
  | 0x39 => some 3
  | 0x3A => some 4
  | 0x3B => some 2
  | 0x3C => some 1
  | 0x40 => some 9
  | 0x41 => some 0
  | _ => none

/-- The frame checks of R149 in their order, on the bytes the receive buffer holds; `none` passes. -/
def frameProblem (received : List Byte) : Option FrameProblem :=
  match received with
  | [] => some .shortFrame
  | [_] => some .shortFrame
  | code :: length :: payload =>
    match requestLength code.toNat with
    | none => some .unknownRequest
    | some n =>
      if length.toNat ≠ n then some .badLength
      else if payload.length < n then some .shortFrame
      else none

/-- Byte `i` of a payload. -/
def byteAt (p : List Byte) (i : Nat) : Byte := p.getD i 0

/-- The two bytes from byte `i`, most significant byte first. -/
def halfAt (p : List Byte) (i : Nat) : Half := byteAt p i ++ byteAt p (i + 1)

/-- The six bytes from byte `i` as a position. -/
def pointAt (p : List Byte) (i : Nat) : RawPoint := ⟨halfAt p i, halfAt p (i + 2), halfAt p (i + 4)⟩

/-- The three bytes from byte `i` as a zone set. -/
def zoneSetAt (p : List Byte) (i : Nat) : ZoneSet := byteAt p i ++ byteAt p (i + 1) ++ byteAt p (i + 2)

/-- A two-byte field as the link carries it. -/
def halfBytes (h : Half) : List Byte := [h.extractLsb' 8 8, h.extractLsb' 0 8]

/-- A position as the link carries it. -/
def pointBytes (p : RawPoint) : List Byte := halfBytes p.x ++ halfBytes p.y ++ halfBytes p.z

/-- A zone set as the link carries it: zone 23 is bit 7 of the first byte. -/
def zoneSetBytes (z : ZoneSet) : List Byte := [z.extractLsb' 16 8, z.extractLsb' 8 8, z.extractLsb' 0 8]

/-- The request that a command code and its payload spell (spec 12). -/
def requestOf (code : Nat) (p : List Byte) : Option Instr :=
  match code with
  | 0x00 => some .nop
  | 0x01 => some .identify
  | 0x02 => some .getCause
  | 0x03 => some (.ackEvents (byteAt p 0))
  | 0x04 => some (.setEventMask (byteAt p 0))
  | 0x05 => some .standby
  | 0x06 => some .wake
  | 0x07 => some .restart
  | 0x08 => some (.setClock (byteAt p 0))
  | 0x09 => some .getClock
  | 0x10 => some (.setStation (byteAt p 0) (pointAt p 1) (zoneSetAt p 7))
  | 0x11 => some (.getStation (byteAt p 0))
  | 0x12 => some (.clearStation (byteAt p 0))
  | 0x13 => some (.setZone ⟨byteAt p 0, pointAt p 1, pointAt p 7, byteAt p 13, halfAt p 14, byteAt p 16, halfAt p 17, byteAt p 19⟩)
  | 0x14 => some (.getZone (byteAt p 0))
  | 0x15 => some (.setArea (byteAt p 0) (byteAt p 1) (byteAt p 2))
  | 0x16 => some (.getArea (byteAt p 0))
  | 0x18 => some (.setTemperature (halfAt p 0))
  | 0x19 => some .getAlignment
  | 0x1A => some (.setTiming ⟨halfAt p 0, halfAt p 2, byteAt p 4, halfAt p 5, byteAt p 7, byteAt p 8⟩)
  | 0x1B => some .getTiming
  | 0x20 => some (.place (byteAt p 0) (byteAt p 1) (byteAt p 2) (halfAt p 3))
  | 0x21 => some (.move (byteAt p 0) (byteAt p 1))
  | 0x22 => some (.setLevel (byteAt p 0) (halfAt p 1))
  | 0x23 => some (.retire (byteAt p 0))
  | 0x24 => some (.getPlacement (byteAt p 0))
  | 0x25 => some (.findAtStation (byteAt p 0))
  | 0x26 => some (.getFeed (byteAt p 0) (byteAt p 1))
  | 0x27 => some .listLimited
  | 0x28 => some .getPool
  | 0x30 => some (.setSource ⟨byteAt p 0, halfAt p 1, halfAt p 3, halfAt p 5, halfAt p 7, byteAt p 9, halfAt p 10, byteAt p 12, byteAt p 13, byteAt p 14⟩)
  | 0x31 => some (.getSource (byteAt p 0))
  | 0x32 => some (.setGateMode (byteAt p 0) (byteAt p 1))
  | 0x33 => some .getMeters
  | 0x34 => some .getZoneMeters
  | 0x38 => some (.listNotches (byteAt p 0))
  | 0x39 => some (.addNotch (byteAt p 0) (byteAt p 1) (byteAt p 2))
  | 0x3A => some (.editNotch (byteAt p 0) (byteAt p 1) (byteAt p 2) (byteAt p 3))
  | 0x3B => some (.retireNotch (byteAt p 0) (byteAt p 1))
  | 0x3C => some (.clearDynamic (byteAt p 0))
  | 0x40 => some (.setCue ⟨byteAt p 0, byteAt p 1, byteAt p 2, byteAt p 3, byteAt p 4, byteAt p 5, halfAt p 6, byteAt p 8⟩)
  | 0x41 => some .getCueStatus
  | _ => none

/-- The command that the rise of chip select gives, from the bytes received in the transaction: the request of a frame
that passes the checks of R149, else FRAME_REJECTED. Bytes beyond the 50th are not kept (R148). -/
def decodeFrame (received : List Byte) : Instr :=
  let kept := received.take 50
  match frameProblem kept with
  | some _ => .frameRejected kept
  | none => (requestOf (byteAt kept 0).toNat (kept.drop 2)).getD (.frameRejected kept)

/-- The command code of each request (spec 12); an event has none. -/
def requestCode : Instr → Option Byte
  | .nop => some 0x00
  | .identify => some 0x01
  | .getCause => some 0x02
  | .ackEvents _ => some 0x03
  | .setEventMask _ => some 0x04
  | .standby => some 0x05
  | .wake => some 0x06
  | .restart => some 0x07
  | .setClock _ => some 0x08
  | .getClock => some 0x09
  | .setStation _ _ _ => some 0x10
  | .getStation _ => some 0x11
  | .clearStation _ => some 0x12
  | .setZone _ => some 0x13
  | .getZone _ => some 0x14
  | .setArea _ _ _ => some 0x15
  | .getArea _ => some 0x16
  | .setTemperature _ => some 0x18
  | .getAlignment => some 0x19
  | .setTiming _ => some 0x1A
  | .getTiming => some 0x1B
  | .place _ _ _ _ => some 0x20
  | .move _ _ => some 0x21
  | .setLevel _ _ => some 0x22
  | .retire _ => some 0x23
  | .getPlacement _ => some 0x24
  | .findAtStation _ => some 0x25
  | .getFeed _ _ => some 0x26
  | .listLimited => some 0x27
  | .getPool => some 0x28
  | .setSource _ => some 0x30
  | .getSource _ => some 0x31
  | .setGateMode _ _ => some 0x32
  | .getMeters => some 0x33
  | .getZoneMeters => some 0x34
  | .listNotches _ => some 0x38
  | .addNotch _ _ _ => some 0x39
  | .editNotch _ _ _ _ => some 0x3A
  | .retireNotch _ _ => some 0x3B
  | .clearDynamic _ => some 0x3C
  | .setCue _ => some 0x40
  | .getCueStatus => some 0x41
  | _ => none

/-- The payload bytes of each request, by the layouts of spec 12; an event has none. -/
def requestPayload : Instr → List Byte
  | .ackEvents a => [a]
  | .setEventMask a => [a]
  | .setClock a => [a]
  | .setStation a b c => [a] ++ pointBytes b ++ zoneSetBytes c
  | .getStation a => [a]
  | .clearStation a => [a]
  | .setZone p => [p.zone] ++ pointBytes p.speaker ++ pointBytes p.listener ++ [p.area] ++ halfBytes p.baseLevel ++ [p.precedenceOffset] ++ halfBytes p.latencyTrim ++ [p.mute]
  | .getZone a => [a]
  | .setArea a b c => [a, b, c]
  | .getArea a => [a]
  | .setTemperature a => halfBytes a
  | .setTiming p => halfBytes p.glideTime ++ halfBytes p.fadeTime ++ [p.fadeShape] ++ halfBytes p.notchDecay ++ [p.deadband] ++ [p.debounce]
  | .place a b c d => [a] ++ [b] ++ [c] ++ halfBytes d
  | .move a b => [a, b]
  | .setLevel a b => [a] ++ halfBytes b
  | .retire a => [a]
  | .getPlacement a => [a]
  | .findAtStation a => [a]
  | .getFeed a b => [a, b]
  | .setSource p => [p.source] ++ halfBytes p.trim ++ halfBytes p.openThreshold ++ halfBytes p.closeThreshold ++ halfBytes p.holdTime ++ [p.attackTime] ++ halfBytes p.releaseTime ++ [p.detectorEnable] ++ [p.ringMargin] ++ [p.persistence]
  | .getSource a => [a]
  | .setGateMode a b => [a, b]
  | .listNotches a => [a]
  | .addNotch a b c => [a, b, c]
  | .editNotch a b c d => [a, b, c, d]
  | .retireNotch a b => [a, b]
  | .clearDynamic a => [a]
  | .setCue p => [p.line] ++ [p.edge] ++ [p.action] ++ [p.source] ++ [p.station] ++ [p.service] ++ halfBytes p.level ++ [p.gateMode]
  | _ => []

/-- The frame a host sends for a request: command code, payload length, payload (spec 12, Frames). -/
def encodeRequest (i : Instr) : Option (List Byte) :=
  (requestCode i).map fun code =>
    code :: BitVec.ofNat 8 (requestPayload i).length :: requestPayload i

/-- The command a word of the opcode table spells. The table gives no row any bits, so no word spells a command. -/
def decodeTableWord (_nbits _w : Nat) : Option Instr := none

end Sys2Proof
end

