-- ==== Sys2Proof/Config.lean ====
section
/-! DEFINITION. What the spec leaves open, as constants with no body: nothing in Lean can evaluate them, so a proof
holds whatever they are. Each is used through one operation of Machine/ that keeps what the spec does state. -/

namespace Sys2Proof

/-- The coefficients of a second-order section: y = b₀x + b₁x₁ + b₂x₂ − a₁y₁ − a₂y₂. -/
structure SectionFilter where
  b0 : Rat
  b1 : Rat
  b2 : Rat
  a1 : Rat
  a2 : Rat
deriving DecidableEq, Repr, Inhabited

/-- Whether a product that is no whole sample is rounded up to the next one or down (R84, R96, R146 state no rounding);
arguments: State.freeSerial, so that two frames may round differently, the place of the rounding and the exact product.
DESIGN CHOICE, log 7. -/
opaque Config.roundsUp : Nat → Nat → Rat → Bool

/-- The filter of a notch section tied to a band at a present cut; R114 gives its cut at the band's frequency and one
band either side, and leaves the rest of its response open. DESIGN CHOICE, log 8. -/
opaque Config.sectionFilter : Nat → Rat → SectionFilter

end Sys2Proof
end

