-- ==== Sys2Proof/Machine/State.lean ====
section
/-! DEFINITION. The state of the LW2416 as plain data, every record the spec gives the part, and the machine right
after power-on reset. A level, gain or threshold is a whole number of hdB; a gain, fade level or ramp is an exact
rational (log 11). -/

namespace Sys2Proof.Machine

/-- Why the part stops with a fault: never. The spec stops the part nowhere, so there is no constructor, nothing raises
one, and no state is lost by it (safe). -/
inductive Fault where
deriving DecidableEq, Repr

/-- Why a command is refused by the model (a refusal of the part's own is a result code, not this). -/
inductive Refusal where
  /-- Raised by `exec` alone for a command whose meaning is not written yet. Safe: the machine stops. -/
  | notModelled (mnemonic : String)
deriving DecidableEq, Repr

/-- The result codes of R152. -/
inductive ResultCode where
  | ok | unknownRequest | badLength | shortFrame | outOfRange | absent | alreadyPlaced | poolFull | inUse | tooClose
  | tableFull | retiring
deriving DecidableEq, Repr

/-! ### The Building Store -/

/-- A point in whole centimetres (spec 00, Units and ranges). -/
structure Point where
  x : Int
  y : Int
  z : Int
deriving DecidableEq, Repr

/-- A station record (R1). -/
structure Station where
  present : Bool
  position : Point
  reach : ZoneSet
deriving DecidableEq, Repr

/-- A zone record (R7). -/
structure ZoneRecord where
  speaker : Point
  listener : Point
  area : AreaId
  baseLevel : Int
  precedenceOffset : Nat
  latencyTrim : Int
  mute : Bool
deriving DecidableEq, Repr

/-- An area record (R13): its mode, with the service it holds exactly while SEPARATE. -/
inductive AreaMode where
  | joined
  | separate (service : Service)
deriving DecidableEq, Repr

/-- The mapping of fade level to fade weight (R15, R74). -/
inductive FadeShape where
  | linear
  | constantDb
deriving DecidableEq, Repr

/-- The timing settings (R15). -/
structure Timing where
  glideTime : Nat
  fadeTime : Nat
  fadeShape : FadeShape
  notchDecay : Nat
  deadband : Nat
  debounce : Nat
deriving DecidableEq, Repr

/-! ### Movements in time -/

/-- A ramp of a gain or level between 0 and 1: its value, the signed step it moves by in each frame (0 at rest), and
the model's mark that the frame in which it reaches its end has run and its completion has not been taken (log 2). -/
structure Ramp where
  value : Rat
  step : Rat
  due : Bool
deriving DecidableEq, Repr

/-- A movement of a factor or a cut in a straight line over a fixed number of frames: the value reached, the value
moved to, and the frames left while it is in flight (R84, R114, R144). -/
structure Slide where
  value : Rat
  target : Rat
  left : Option Nat
deriving DecidableEq, Repr

/-! ### The Placement Table and the Feed Pool -/

/-- The state of a placement (R18). -/
inductive PlacementState where
  | active
  | retiring
deriving DecidableEq, Repr

/-- A placement record (R18); its source is its place in the table and its [feeds] are the feeds in use. -/
structure Placement where
  station : StationId
  service : Service
  level : Int
  state : PlacementState
deriving DecidableEq, Repr

/-- The state of a feed in use (R22), with the fade in flight where there is one (R70). -/
inductive FeedState where
  | waiting
  | fadingIn (fade : Ramp)
  | steady
  | fadingOut (fade : Ramp)
deriving DecidableEq, Repr

/-- A glide in flight (R64), with the pending tap, which is present only during a glide. -/
structure Glide where
  target : Nat
  pending : Option Nat
  position : Nat
  length : Nat
deriving DecidableEq, Repr

/-- The applied factor of a feed (R144): the effective gain it has or moves to, and the factor with its movement. -/
structure GainSmoothing where
  effective : Int
  factor : Slide
deriving DecidableEq, Repr

/-- A feed record in use (R20). -/
structure Feed where
  state : FeedState
  active : Option Nat
  glide : Option Glide
  baseGain : Int
  limited : Bool
  smoothing : Option GainSmoothing
deriving DecidableEq, Repr

/-! ### The Input Channels -/

/-- The gate modes (R81). -/
inductive GateMode where
  | auto
  | forcedOpen
  | forcedShut
deriving DecidableEq, Repr

/-- A source record (R81). -/
structure SourceRecord where
  trim : Int
  gateMode : GateMode
  openThreshold : Int
  closeThreshold : Int
  holdTime : Nat
  attackTime : Nat
  releaseTime : Nat
  detectorEnable : Bool
  ringMargin : Nat
  persistence : Nat
deriving DecidableEq, Repr

/-- The state of a gate with its ramp in flight or its hold timer (R86 to R89); `turned` is the model's mark that a block
evaluation has turned the gate here from CLOSING and no frame has run since (R92; log 36). -/
inductive Gate where
  | closed
  | opening (ramp : Ramp) (turned : Bool)
  | opened
  | hold (timer : Nat)
  | closing (ramp : Ramp)
deriving DecidableEq, Repr

/-- A source's history (R96): the samples that are not silence by their place in the circular store, rising, and the
place the next frame writes. -/
structure History where
  cells : List (Nat × Int)
  writePos : Nat
deriving DecidableEq, Repr

/-- The running state of an Input Channel (R98); `blockEnergy` is the sum of the squares of the block's samples. -/
structure Channel where
  trimFactor : Slide
  gate : Gate
  level : Int
  blockEnergy : Nat
  history : History
deriving DecidableEq, Repr

/-! ### Ring Detectors and Notch Tables -/

/-- A Ring Detector (R99): its persistence count and run band, whether it has run throughout the window in progress,
and that window's samples, newest first (log 30). -/
structure Detector where
  count : Nat
  runBand : Option Band
  analysing : Bool
  window : List Int
deriving DecidableEq, Repr

/-- The kinds of notch (R103). -/
inductive NotchKind where
  | fixed
  | dynamic
deriving DecidableEq, Repr

/-- A notch record (R103). -/
structure Notch where
  band : Band
  depth : Nat
  kind : NotchKind
  quietTime : Nat
  hits : Nat
deriving DecidableEq, Repr

/-- The last two samples into a notch section and out of it, the later first. -/
structure FilterMemory where
  x1 : Rat
  x2 : Rat
  y1 : Rat
  y2 : Rat
deriving DecidableEq, Repr

/-- A notch section tied to a band, with its present cut and the memory of its filter (R114). -/
structure NotchSection where
  band : Band
  outgoing : Bool
  cut : Slide
  memory : FilterMemory
deriving DecidableEq, Repr

/-! ### Zone Mixers, Cue Inputs, Clock Unit -/

/-- What a Zone Mixer holds for its zone: the mute gain, the meters and the last output sample (R145 to R147). -/
structure Mixer where
  mute : Ramp
  peak : Int
  clip : Bool
  output : Int
deriving DecidableEq, Repr

/-- The edge a Cue Line watches for (R129). -/
inductive Edge where
  | none
  | rising
  | falling
  | both
deriving DecidableEq, Repr

/-- The stored action of a Cue Line (R130). -/
inductive CueAction where
  | none
  | place (source : Source) (station : StationId) (service : Service) (level : Int)
  | move (source : Source) (station : StationId)
  | retire (source : Source)
  | gateMode (source : Source) (mode : GateMode)
  | wake
deriving DecidableEq, Repr

/-- A Cue Line: its record and its running state (R128 to R132). -/
structure CueLine where
  edge : Edge
  action : CueAction
  lastResult : ResultCode
  raw : Bool
  held : Nat
  debounced : Bool
  delta : Bool
  refused : Bool
deriving DecidableEq, Repr

/-- The clock selection (R137). -/
inductive ClockSelection where
  | internal
  | external
deriving DecidableEq, Repr

/-- The clock state (R137). -/
inductive ClockState where
  | internal
  | lockedExternal
  | awaitingExternal
deriving DecidableEq, Repr

/-- A switch in flight, in its down phase toward a clock state or in its up phase (R137, R139). -/
inductive SwitchPhase where
  | down (target : ClockState)
  | up
deriving DecidableEq, Repr

/-- The Clock Unit (R137); `missed` is the run of missed frames in LOCKED_EXTERNAL, and `frameStarted` says that a
received arrival has started a frame that has not run yet (R138). -/
structure ClockUnit where
  selection : ClockSelection
  state : ClockState
  pendingSelection : Option ClockSelection
  flight : Option SwitchPhase
  gain : Rat
  presence : Nat
  missed : Nat
  frameStarted : Bool
deriving DecidableEq, Repr

/-! ### The Control Link and Service Control -/

/-- The event flags in their order of priority, which is their order of bits (R154, spec 12). -/
inductive EventFlag where
  | clock | restarted | notchSaturated | limited | cueRefused | cue | settled
deriving DecidableEq, Repr

/-- The cause of the last reset (R154). -/
inductive RestartCause where
  | powerOn
  | resetPin
  | restartRequest
deriving DecidableEq, Repr

/-- A response as the holding buffer keeps it (R150), less the attention-pending indication. -/
structure Response where
  result : ResultCode
  echo : Byte
  payload : List Byte
deriving DecidableEq, Repr

/-- A transaction in progress: the bytes it shifts out, after which it shifts out 0x00 bytes (R148), and whether a warm
restart has ended its request (R151). -/
structure Transaction where
  shiftOut : List Byte
  ended : Bool
deriving DecidableEq, Repr

/-- The Control Link (R160); bit n of `flags` and `mask` is the n-th event flag (spec 12). -/
structure Link where
  receiveBuffer : List Byte
  response : Response
  flags : BitVec 7
  mask : BitVec 7
  restartCause : RestartCause
  transaction : Option Transaction
deriving DecidableEq, Repr

/-- The service states (R161). -/
inductive ServiceState where
  | active
  | enteringStandby
  | standby
deriving DecidableEq, Repr

/-- Service Control (R161, R167): the state, the service ramp, the trigger of a warm restart whose clearing has not
been taken, and whether the reset pin is held low. -/
structure ServiceControl where
  state : ServiceState
  ramp : Ramp
  restart : Option RestartCause
  resetPinLow : Bool
deriving DecidableEq, Repr

/-- The whole part, and the queue of the commands that wait. -/
@[ext]
structure State where
  stations : Vector Station 32
  zones : Vector ZoneRecord 24
  areas : Vector AreaMode 8
  timing : Timing
  reportedTemperature : Int
  temperatureInUse : Int
  placements : Vector (Option Placement) 16
  feeds : Vector (Vector (Option Feed) 24) 16
  queue : List FeedKey
  sources : Vector SourceRecord 16
  channels : Vector Channel 16
  blockCount : Nat
  detectors : Vector Detector 16
  notches : Vector (List Notch) 16
  sections : Vector (Vector (Option NotchSection) 16) 16
  windowCount : Nat
  secondCount : Nat
  stepped : List (Source × Band)
  mixers : Vector Mixer 24
  portA : Option (Vector Int 16)
  portB : Option (Vector Int 16)
  cues : Vector CueLine 8
  clock : ClockUnit
  link : Link
  service : ServiceControl
  freeSerial : Nat
  pending : List Instr
deriving DecidableEq, Repr

/-! ### Values after power-on reset -/

/-- An absent station (R1). -/
def Station.reset : Station := ⟨false, ⟨0, 0, 0⟩, 0⟩

/-- A zone at power-on (R7). -/
def ZoneRecord.reset : ZoneRecord := ⟨⟨0, 0, 0⟩, ⟨0, 0, 0⟩, 0, -12, 20, 0, true⟩

/-- The timing settings at power-on (R15). -/
def Timing.reset : Timing := ⟨80, 300, .linear, 120, 5, 20⟩

/-- A source record at power-on (R81). -/
def SourceRecord.reset : SourceRecord := ⟨0, .auto, -80, -90, 500, 5, 400, false, 36, 6⟩

/-- A channel at power-on (R98): the trim factor of trim 0 is 1. -/
def Channel.reset : Channel := ⟨⟨1, 1, none⟩, .closed, -240, 0, ⟨[], 0⟩⟩

/-- The memory of a section that has passed nothing yet. -/
def FilterMemory.empty : FilterMemory := ⟨0, 0, 0, 0⟩

/-- A stopped detector (R99, R116). -/
def Detector.idle : Detector := ⟨0, none, false, []⟩

/-- A Zone Mixer at power-on (R145, R147); the last output sample is silence (log 27). -/
def Mixer.reset : Mixer := ⟨⟨0, 0, false⟩, -240, false, 0⟩

/-- A Cue Line at power-on (R135), its contact open (log 16). -/
def CueLine.reset : CueLine := ⟨.none, .none, .ok, false, 0, false, false, false⟩

/-- The Clock Unit at power-on (R137). -/
def ClockUnit.reset : ClockUnit := ⟨.internal, .internal, none, none, 1, 0, 0, false⟩

/-- The empty OK response with the code of NOP (R151). -/
def Response.reset : Response := ⟨.ok, 0, []⟩

/-- The Control Link at power-on: RESTARTED alone is set (R160). -/
def Link.reset : Link := ⟨[], Response.reset, 0b0000010, 0, .powerOn, none⟩

/-- Service Control at power-on (R161, R166). -/
def ServiceControl.reset : ServiceControl := ⟨.active, ⟨1, 0, false⟩, none, false⟩

/-- The part right after power-on reset (R166), with no command waiting. -/
def State.reset : State where
  stations := vgen fun _ => Station.reset
  zones := vgen fun _ => ZoneRecord.reset
  areas := vgen fun _ => .joined
  timing := Timing.reset
  reportedTemperature := 200
  temperatureInUse := 200
  placements := vgen fun _ => none
  feeds := vgen fun _ => vgen fun _ => none
  queue := []
  sources := vgen fun _ => SourceRecord.reset
  channels := vgen fun _ => Channel.reset
  blockCount := 0
  detectors := vgen fun _ => Detector.idle
  notches := vgen fun _ => []
  sections := vgen fun _ => vgen fun _ => none
  windowCount := 0
  secondCount := 0
  stepped := []
  mixers := vgen fun _ => Mixer.reset
  portA := none
  portB := none
  cues := vgen fun _ => CueLine.reset
  clock := ClockUnit.reset
  link := Link.reset
  service := ServiceControl.reset
  freeSerial := 0
  pending := []

end Sys2Proof.Machine
end

