-- ==== Sys2Proof/Machine/Arithmetic.lean ====
section
/-! DEFINITION. The exact arithmetic of the part: clamps, whole roots, the linear factors of levels, levels of
samples, distances and the delay of a feed (R51 to R58, R84, R85, R147). -/

namespace Sys2Proof.Machine

/-! ### Clamps -/

/-- The value, or the nearest end of the range (spec 00, Clamping and refusal). -/
def clampInt (lo hi x : Int) : Int := max lo (min hi x)

/-- The value, or the nearest end of the range. -/
def clampNat (lo hi x : Nat) : Nat := max lo (min hi x)

/-- The value, or the nearest of 0 and 1. -/
def clampUnit (x : Rat) : Rat := max 0 (min 1 x)

/-! ### Whole roots and rounding -/

/-- From `acc` upward in powers of two, highest first: the largest number below `acc + 2 ^ bits` that `fits`, for a
`fits` that holds of every smaller number too. -/
def largestFitting (fits : Nat → Bool) : Nat → Nat → Nat
  | 0, acc => acc
  | bits + 1, acc =>
    if fits (acc + 2 ^ bits) then largestFitting fits bits (acc + 2 ^ bits) else largestFitting fits bits acc

/-- The floor of the square root of a number below 4^bits. -/
def wholeRoot (bits n : Nat) : Nat := largestFitting (fun r => decide (r * r ≤ n)) bits 0

/-- The floor of the square root of a number below 2^36 (R51). -/
def floorRoot (n : Nat) : Nat := wholeRoot 18 n

/-- The whole number nearest to `x`, the upper one at a tie (log 22). -/
def nearest (x : Rat) : Int := (x + 1 / 2).floor

/-! ### Linear factors of levels -/

/-- The floor of 2^22 × 10^(g/n), for a power from 0 to 16. -/
def doubledFactor (g : Int) (n : Nat) : Nat :=
  largestFitting (fun r => decide (r ^ n * 10 ^ (-g).toNat ≤ 2 ^ (22 * n) * 10 ^ g.toNat)) 27 0

/-- 10^(g/n) held as the multiple of 2^−21 nearest to it. -/
def heldFactor (g : Int) (n : Nat) : Rat := ((doubledFactor g n + 1) / 2 : Nat) / (2 ^ 21 : Rat)

/-- The factor 10^(g/40) of a level g, held as the multiple of 2^−21 nearest to it (R58, R84). -/
def factorOf (g : Int) : Rat := heldFactor g 40

/-- The linear factor of an effective gain: 0 at or below −192 hdB (R58). -/
def gainFactor (g : Int) : Rat := if g ≤ -192 then 0 else factorOf g

/-! ### Samples and levels -/

/-- Full scale: the largest magnitude a 24-bit sample can hold (spec 00, Units and ranges). -/
def fullScale : Nat := 8388608

/-- The least k from `k` on, at most `fuel` further, for which num × 10^k reaches den. -/
def stepsDown (num den : Nat) : Nat → Nat → Nat
  | 0, k => k
  | fuel + 1, k => if den ≤ num * 10 ^ k then k else stepsDown num den fuel (k + 1)

/-- The level of the ratio num/den raised to the power 1/40 in hdB, rounded down and floored at −240 (R85, R147). -/
def levelOfRatio (num den : Nat) : Int := -(stepsDown num den 240 0 : Int)

/-- The level of a block whose samples' squares sum to `energy`: the root mean square of 480 samples in hdB, rounded
down, floored at −240 (R85). -/
def blockLevel (energy : Nat) : Int := levelOfRatio (energy ^ 20) ((480 * fullScale ^ 2) ^ 20)

/-- The level of one sample's magnitude in hdB, rounded down, floored at −240 (R147). -/
def sampleLevel (x : Int) : Int := levelOfRatio (x.natAbs ^ 40) (fullScale ^ 40)

/-- The product saturated at the ends of a 24-bit sample: above the largest positive sample it becomes that one, below the
most negative one that one (R84, R146; DEDUCED for R84, log 6). -/
def saturate (x : Rat) : Rat := max (-8388608) (min 8388607 x)

/-- Whether saturation changes the product (R146, step 3). -/
def saturates (x : Rat) : Bool := decide (x < -8388608) || decide (8388607 < x)

/-- A whole number saturated at the ends of a 24-bit sample. -/
def saturateInt (x : Int) : Int := clampInt (-8388608) 8388607 x

/-- The sample of an exact product: the product itself where it is whole, else one of its two neighbours, which one
being free (log 7). -/
def roundSample (serial place : Nat) (x : Rat) : Int :=
  if x.den = 1 then x.num else x.floor + (if Config.roundsUp serial place x then 1 else 0)

/-! ### Distance, speed of sound and delay -/

/-- The floor of the straight-line distance of two points, in cm (R51, R52). -/
def distance (a b : Point) : Nat :=
  floorRoot ((b.x - a.x) ^ 2 + (b.y - a.y) ^ 2 + (b.z - a.z) ^ 2).toNat

/-- The speed of sound in mm/s at a temperature in tenths of a degree (R53). -/
def speedOfSound (t : Int) : Int := 331300 + (606 * t).tdiv 10

/-- The path samples of a path difference in cm at a speed of sound, rounded half up (R54). -/
def pathSamples (delta c : Int) : Int :=
  if delta ≤ 0 then 0
  else
    let q := delta * 480000 / c
    let r := delta * 480000 % c
    if c ≤ 2 * r then q + 1 else q

/-- The total delay of a feed before the limit (R55). -/
def totalDelay (station : Point) (zone : ZoneRecord) (temperature : Int) : Int :=
  let delta := (distance station zone.listener : Int) - (distance zone.speaker zone.listener : Int)
  pathSamples delta (speedOfSound temperature) + 24 * (zone.precedenceOffset : Int) + zone.latencyTrim

/-- The derived delay of a total: clamped to 0 to 30 000 samples (R55). -/
def derivedDelay (total : Int) : Nat := (clampInt 0 30000 total).toNat

/-- The [limited] mark of a total (R55). -/
def isLimited (total : Int) : Bool := decide (30000 < total)

/-- The base gain of a feed (R56): the silence that R7 gives a zone at base level −192 comes of it (log 35). -/
def baseGainOf (baseLevel level : Int) : Int := clampInt (-192) 24 (baseLevel + level)

/-- The open-microphone attenuation A(n) in hdB (R57). -/
def attenuation (n : Nat) : Int :=
  [0, 0, 6, 10, 12, 14, 16, 17, 18, 19, 20, 21, 22, 22, 23, 24].getD n 24

end Sys2Proof.Machine
end

