-- ==== Sys2Proof/Machine/Spectrum.lean ====
section
/-! DEFINITION. The spectrum of the part's bands: their frequencies, the energy of a window in a band (R100), and the
response of a notch section (R114). Sines, powers and roots are held as multiples of 2^−64, rounded down (log 34). -/

namespace Sys2Proof.Machine

/-! ### Numbers held in fixed point -/

/-- The multiple of 2^−64 at or next below a number (log 34). -/
def held (x : Rat) : Rat := ((x * 2 ^ 64).floor : Rat) / 2 ^ 64

/-- The square root of a number below 16; 0 for one that is not above 0. -/
def heldRoot (x : Rat) : Rat := (wholeRoot 66 (x * 2 ^ 128).floor.toNat : Rat) / 2 ^ 64

/-- The terms t, −t·x²/((n+1)(n+2)), … of the series of sine and cosine, summed. -/
def waveSeries (square : Rat) : Nat → Nat → Rat → Rat
  | 0, _, _ => 0
  | fuel + 1, n, term =>
    term + waveSeries square fuel (n + 2) (held (-(term * square) / (((n + 1) * (n + 2) : Nat) : Rat)))

/-- The cosine of an angle from 0 to π. -/
def cosine (angle : Rat) : Rat := waveSeries (held (angle * angle)) 24 0 1

/-- The sine of an angle from 0 to π. -/
def sine (angle : Rat) : Rat := waveSeries (held (angle * angle)) 24 1 angle

/-- The terms of the series of e^y, summed. -/
def expSeries (y : Rat) : Nat → Nat → Rat → Rat
  | 0, _, _ => 0
  | fuel + 1, n, term => term + expSeries y fuel (n + 1) (held (term * y / ((n + 1 : Nat) : Rat)))

/-- The natural logarithm of 10. -/
def logTen : Rat := 230258509299404568401799145468436421 / 10 ^ 35

/-- The factor of a gain in hdB, 10^(g/40), for g from −72 to 72. -/
def gainPower (g : Rat) : Rat := expSeries (held (held (g / 40) * logTen)) 40 0 1

/-! ### Frequencies -/

/-- One whole turn, 2π. -/
def circle : Rat := 628318530717958647692528676655900577 / 10 ^ 35

/-- The turns per sample at 40 × 2^(h/48) Hz: the centre of band i is h = 2i, and its edges are one below and one above
(spec 00, Units and ranges; R100). -/
def turnsAt (h : Int) : Rat :=
  (largestFitting (fun r => decide (r ^ 48 ≤ 2 ^ (48 * 40 + h).toNat)) 52 0 : Rat) / (2 ^ 40 * 1200)

/-- The angle per sample at that frequency. -/
def angleAt (h : Int) : Rat := held (circle * turnsAt h)

/-! ### The energy of a window in a band (R100; DEDUCED, log 9) -/

/-- The products of the samples of a window with those `k` later, summed. -/
def lagProduct (window : List Int) (k : Nat) : Int := ((window.zip (window.drop k)).map fun p => p.1 * p.2).sum

/-- Every lag's product, from lag 0. -/
def lagProducts (window : List Int) : List Int := (List.range window.length).map (lagProduct window)

/-- The sum of r·sin(kω)/k over lags from `k` on, from the sines of lags k and k − 1. -/
def lagSum (twiceCosine : Rat) : List Int → Nat → Rat → Rat → Rat
  | [], _, _, _ => 0
  | r :: rest, k, sin, before =>
    held (r * sin / (k : Rat)) + lagSum twiceCosine rest (k + 1) (held (twiceCosine * sin - before)) sin

/-- The energy of a window below a frequency: the integral of its energy spectrum, which over the whole spectrum is the
sum of its squares. -/
def energyBelow (lags : List Int) (h : Int) : Rat :=
  2 * turnsAt h * lags.headD 0 +
    4 / circle * lagSum (2 * cosine (angleAt h)) lags.tail 1 (sine (angleAt h)) 0

/-- The energy of a window in a band one twenty-fourth of an octave wide about its centre. -/
def bandEnergy (lags : List Int) (b : Band) : Rat :=
  max 0 (energyBelow lags (2 * b.val + 1) - energyBelow lags (2 * b.val - 1))

/-- The level of an energy over 1024 samples in hdB relative to full scale, rounded down and floored at −240. -/
def energyLevel (energy : Rat) : Int :=
  levelOfRatio (energy.num.toNat ^ 20) ((energy.den * 1024 * fullScale ^ 2) ^ 20)

/-- The levels of the 208 bands of a window (R100); silence has no energy in any. -/
def bandLevels (window : List Int) : Vector Int 208 :=
  if window.all (· == 0) then vgen fun _ => -240
  else
    let lags := lagProducts window
    vgen fun b => energyLevel (bandEnergy lags b)

/-! ### The response of a notch section (R114) -/

/-- |c₀ + c₁ z + c₂ z²|² at a frequency of cosine `x`. -/
def powerOf (c0 c1 c2 x : Rat) : Rat :=
  c0 * c0 + c1 * c1 + c2 * c2 + 2 * (c0 * c1 + c1 * c2) * x + 2 * (c0 * c2) * (2 * x * x - 1)

/-- The power gain of a section, as the powers of its two sides, within 2^−20 of a number. -/
def powerNear (f : SectionFilter) (x gain : Rat) : Bool :=
  let out := powerOf f.b0 f.b1 f.b2 x
  let want := gain * powerOf 1 f.a1 f.a2 x
  decide (want * (1 - 1 / 2 ^ 20) ≤ out) && decide (out ≤ want * (1 + 1 / 2 ^ 20))

/-- Whether a section's response is what R114 states for a band and a present cut: the cut at the band's frequency, and
half of it in decibels one band either side; and its output dies away where its input does. -/
def meetsCut (f : SectionFilter) (b : Band) (cut : Rat) : Bool :=
  let side := gainPower (-cut)
  powerNear f (cosine (angleAt (2 * b.val))) (side * side) &&
    powerNear f (cosine (angleAt (2 * b.val - 2))) side && powerNear f (cosine (angleAt (2 * b.val + 2))) side &&
    decide (|f.a2| < 1) && decide (|f.a1| < 1 + f.a2)

/-- The coefficients c₀, c₁, c₂ whose power is (x − x₀)² + w·r(x), from its values at x = 1 and x = −1. -/
def spectralFactor (atOne atMinusOne : Rat) : Rat × Rat × Rat :=
  let p := heldRoot atOne
  let m := heldRoot atMinusOne
  let sum := (p + m) / 2
  let difference := heldRoot (sum * sum - 1)
  ((sum + difference) / 2, (p - m) / 2, (sum - difference) / 2)

/-- A section that meets R114: its power gain is (q + g·r)/(q + r/g), where g is the power gain one band off, q is 0 at
the centre, and q = r one band either side. -/
def referenceFilter (b : Band) (cut : Rat) : SectionFilter :=
  let centre := cosine (angleAt (2 * b.val))
  let below := cosine (angleAt (2 * b.val - 2))
  let above := cosine (angleAt (2 * b.val + 2))
  let g := gainPower (-cut)
  let side (w x : Rat) : Rat :=
    (x - centre) * (x - centre) + w * ((x - centre) * (x - centre) - (x - below) * (x - above))
  let num := spectralFactor (side g 1) (side g (-1))
  let den := spectralFactor (side (1 / g) 1) (side (1 / g) (-1))
  ⟨held (num.1 / den.1), held (num.2.1 / den.1), held (num.2.2 / den.1), held (den.2.1 / den.1),
    held (den.2.2 / den.1)⟩

/-- The filter of a section tied to a band at a present cut: free where it meets what R114 states, else one that does
(log 8). -/
def sectionFilter (b : Band) (cut : Rat) : SectionFilter :=
  let free := Config.sectionFilter b.val cut
  if meetsCut free b cut then free else referenceFilter b cut

/-- One sample through a section with a present cut above 0, from its last two inputs and outputs; the output is held
as a multiple of 2^−64. -/
def filterOutput (f : SectionFilter) (m : FilterMemory) (x : Rat) : Rat :=
  held (f.b0 * x + f.b1 * m.x1 + f.b2 * m.x2 - f.a1 * m.y1 - f.a2 * m.y2)

/-- The memory after a sample has gone in and out. -/
def FilterMemory.push (m : FilterMemory) (x y : Rat) : FilterMemory := ⟨x, m.x1, y, m.y1⟩

end Sys2Proof.Machine
end

