-- ==== Sys2Proof/Machine/Ramps.lean ====
section
/-! DEFINITION. Ramps between 0 and 1, movements over a fixed number of frames, and the history store. A ramp whose
step would reach or pass its end in a frame is marked due in that frame and stands where it was until its completion
is taken (R70, R86, R161; log 2). -/

namespace Sys2Proof.Machine

/-! ### Ramps -/

/-- A ramp at rest at a value. -/
def Ramp.rest (value : Rat) : Ramp := ⟨value, 0, false⟩

/-- A ramp that starts, or turns, at the value held (R70, R86, R145, R161). -/
def Ramp.start (value step : Rat) : Ramp := ⟨value, step, false⟩

/-- The end a ramp moves to: 1 rising, 0 falling, its own value at rest. -/
def Ramp.goal (r : Ramp) : Rat := if 0 < r.step then 1 else if r.step < 0 then 0 else r.value

/-- Whether the next step would reach or pass the end. -/
def Ramp.arrives (r : Ramp) : Bool :=
  (decide (0 < r.step) && decide (1 ≤ r.value + r.step)) || (decide (r.step < 0) && decide (r.value + r.step ≤ 0))

/-- One frame of a ramp. -/
def Ramp.advance (r : Ramp) : Ramp :=
  if r.due then r else if r.arrives then { r with due := true } else { r with value := r.value + r.step }

/-- The value a ramp has in the present frame: its end in the frame that brings it there. -/
def Ramp.shown (r : Ramp) : Rat := if r.due then r.goal else r.value

/-- A ramp taken to its end. -/
def Ramp.finish (r : Ramp) : Ramp := Ramp.rest r.goal

/-- The size of the step of a full ramp over `ms` milliseconds (R70, R86, R161). -/
def stepOver (ms : Nat) : Rat := 1 / (48 * ms : Rat)

/-! ### Movements -/

/-- A movement at rest at a value. -/
def Slide.rest (value : Rat) : Slide := ⟨value, value, none⟩

/-- A movement toward a new value over `frames` frames, from the value reached (R84, R114, R144). -/
def Slide.toward (s : Slide) (target : Rat) (frames : Nat) : Slide := ⟨s.value, target, some frames⟩

/-- One frame of a movement: a straight line to the target. -/
def Slide.advance (s : Slide) : Slide :=
  match s.left with
  | some (n + 1) => ⟨s.value + (s.target - s.value) / ((n + 1 : Nat) : Rat), s.target, some n⟩
  | _ => s

/-- Whether all frames of a movement have run and its completion has not been taken. -/
def Slide.due (s : Slide) : Bool := s.left == some 0

/-- A movement taken to its end. -/
def Slide.finish (s : Slide) : Slide := Slide.rest s.target

/-! ### Histories -/

/-- The number of places of a history (R96). -/
def historySize : Nat := 32768

/-- The sample at a place of the store; a place not listed holds silence. -/
def cellAt (cells : List (Nat × Int)) (addr : Nat) : Int := (cells.lookup addr).getD 0

/-- The store with one place written, in canonical form. -/
def writeCell (addr : Nat) (x : Int) : List (Nat × Int) → List (Nat × Int)
  | [] => if x = 0 then [] else [(addr, x)]
  | (b, y) :: rest =>
    if addr < b then (if x = 0 then (b, y) :: rest else (addr, x) :: (b, y) :: rest)
    else if addr = b then (if x = 0 then rest else (addr, x) :: rest)
    else (b, y) :: writeCell addr x rest

/-- The canonical form: places rising, below the size of the store, none silent. -/
def cellsOk : List (Nat × Int) → Bool
  | [] => true
  | [(a, x)] => decide (a < historySize) && decide (x ≠ 0)
  | (a, x) :: (b, y) :: rest => decide (a < b) && decide (x ≠ 0) && cellsOk ((b, y) :: rest)

/-- A history whose store is canonical and whose write position is a place of it. -/
def History.wf (h : History) : Bool := cellsOk h.cells && decide (h.writePos < historySize)

/-- One frame's sample written over the oldest (R96). -/
def History.push (h : History) (x : Int) : History :=
  ⟨writeCell h.writePos x h.cells, (h.writePos + 1) % historySize⟩

/-- The sample written `tap` frames before the one written last (R63). -/
def History.tap (h : History) (tap : Nat) : Int :=
  cellAt h.cells ((h.writePos + historySize - 1 - tap % historySize) % historySize)

/-- The history cleared to silence; the write position stays (R96; log 17). -/
def History.clear (h : History) : History := ⟨[], h.writePos⟩

end Sys2Proof.Machine
end

