-- ==== Sys2Proof/Machine/Ops.lean ====
section
/-! DEFINITION. The named operations over the records: reading and writing the tables, the event flags, the settled
condition, the open-microphone counts and the gain smoothing that follows them, the derivation queue, feeds and their
fades, the desired set, reconciliation and the pool check. -/

namespace Sys2Proof.Machine

/-! ### Reading and writing the tables -/

/-- The feed of a source to a zone, if it is in use. -/
def State.feed (s : State) (k : FeedKey) : Option Feed := vget (vget s.feeds k.1) k.2

/-- The part with the feed of a source to a zone replaced. -/
def State.setFeed (s : State) (k : FeedKey) (f : Option Feed) : State :=
  { s with feeds := vset s.feeds k.1 (vset (vget s.feeds k.1) k.2 f) }

/-- The placement of a source, if it has one. -/
def State.placement (s : State) (src : Source) : Option Placement := vget s.placements src

/-- The part with the placement of a source replaced. -/
def State.setPlacement (s : State) (src : Source) (p : Option Placement) : State :=
  { s with placements := vset s.placements src p }

/-- The part with the channel of a source replaced. -/
def State.setChannel (s : State) (src : Source) (c : Channel) : State :=
  { s with channels := vset s.channels src c }

/-- The part with the detector of a source replaced. -/
def State.setDetector (s : State) (src : Source) (d : Detector) : State :=
  { s with detectors := vset s.detectors src d }

/-- The part with the Notch Table of a source replaced. -/
def State.setNotches (s : State) (src : Source) (t : List Notch) : State :=
  { s with notches := vset s.notches src t }

/-- The part with the notch sections of a source replaced. -/
def State.setSections (s : State) (src : Source) (t : Vector (Option NotchSection) 16) : State :=
  { s with sections := vset s.sections src t }

/-- The part with a Cue Line replaced. -/
def State.setCue (s : State) (l : Line) (c : CueLine) : State :=
  { s with cues := vset s.cues l c }

/-- Whether a placement is in use and ACTIVE. -/
def State.isPlaced (s : State) (src : Source) : Bool :=
  match s.placement src with
  | some p => p.state == .active
  | none => false

/-- The gate of a source. -/
def State.gate (s : State) (src : Source) : Gate := (vget s.channels src).gate

/-! ### Gates, counts and smoothing -/

/-- The counted states of a gate: OPENING, OPEN and HOLD (spec 05, The gate). -/
def Gate.counted : Gate → Bool
  | .opening _ _ => true
  | .opened => true
  | .hold _ => true
  | .closed => false
  | .closing _ => false

/-- The states in which a feed counts toward its zone (R22). -/
def FeedState.counted : FeedState → Bool
  | .fadingIn _ => true
  | .steady => true
  | .waiting => false
  | .fadingOut _ => false

/-- Whether a feed is FADING_OUT. -/
def FeedState.isFadingOut : FeedState → Bool
  | .fadingOut _ => true
  | _ => false

/-- Whether a source counts toward a zone's open-microphone count (R95). -/
def State.countsToward (s : State) (z : Zone) (src : Source) : Bool :=
  (s.gate src).counted &&
    match s.feed (src, z) with
    | some f => f.state.counted
    | none => false

/-- The open-microphone count of a zone (R57, R95). -/
def State.openCount (s : State) (z : Zone) : Nat := allSources.countP (s.countsToward z)

/-- The effective gain of a feed in a zone (R58). -/
def State.effectiveGain (s : State) (z : Zone) (f : Feed) : Int := f.baseGain - attenuation (s.openCount z)

/-- A feed's smoothing brought to the effective gain of the moment: set at once at the first derivation, else moved
over 960 frames from the value reached when the effective gain has changed (R144; DEDUCED, log 12). -/
def Feed.smoothed (f : Feed) (effective : Int) : Feed :=
  match f.state, f.smoothing with
  | .waiting, _ => f
  | _, none => { f with smoothing := some ⟨effective, Slide.rest (gainFactor effective)⟩ }
  | _, some sm =>
    if sm.effective = effective then f
    else { f with smoothing := some ⟨effective, sm.factor.toward (gainFactor effective) 960⟩ }

/-- Every Zone Mixer takes up its attenuation and every feed's new effective gain (R58, R95, R144). -/
def State.refreshGains (s : State) : State :=
  { s with
    feeds := vgen fun src => vgen fun z =>
      (s.feed (src, z)).map fun f => f.smoothed (s.effectiveGain z f) }

/-! ### Event flags and the settled condition -/

/-- The bit of an event flag (spec 12, flag set). -/
def EventFlag.index : EventFlag → Nat
  | .clock => 0
  | .restarted => 1
  | .notchSaturated => 2
  | .limited => 3
  | .cueRefused => 4
  | .cue => 5
  | .settled => 6

/-- The set that holds one event flag. -/
def EventFlag.bit (f : EventFlag) : BitVec 7 := BitVec.ofNat 7 (2 ^ f.index)

/-- The part with an event flag set (R154). -/
def State.raise (s : State) (f : EventFlag) : State :=
  { s with link := { s.link with flags := s.link.flags ||| f.bit } }

/-- The part with an event flag cleared (R154). -/
def State.lower (s : State) (f : EventFlag) : State :=
  { s with link := { s.link with flags := s.link.flags &&& ~~~f.bit } }

/-- Whether an event flag is set. -/
def State.flagSet (s : State) (f : EventFlag) : Bool := s.link.flags.getLsbD f.index

/-- Whether a feed leaves the part settled: STEADY, not gliding, no pending tap (R77). -/
def Feed.isSettled (f : Feed) : Bool := f.state == .steady && f.glide.isNone

/-- The settled condition (R77). -/
def State.settled (s : State) : Bool :=
  s.queue.isEmpty &&
    allFeeds.all fun k =>
      match s.feed k with
      | some f => f.isSettled
      | none => true

/-- The end of one event that may change feeds, gates or the queue: the gains follow the counts (R95, R144), and
SETTLED is raised when the event changed the part from not settled to settled (R78). -/
def State.closeEvent (before after : State) : State :=
  let s := after.refreshGains
  if !before.settled && s.settled then s.raise .settled else s

/-! ### The derivation queue -/

/-- A feed offered to the derivation queue (R47). -/
def State.offer (s : State) (k : FeedKey) : State :=
  if s.queue.contains k then s else { s with queue := s.queue ++ [k] }

/-- A feed taken out of the derivation queue wherever it stands (R48). -/
def State.unqueue (s : State) (k : FeedKey) : State := { s with queue := s.queue.filter (· ≠ k) }

/-- Whether a feed is in use and not FADING_OUT. -/
def State.isOfferable (s : State) (k : FeedKey) : Bool :=
  match s.feed k with
  | some f => !f.state.isFadingOut
  | none => false

/-- The feeds among `keys` that are in use and not FADING_OUT, offered in the order given (R3, R9, R34, R60). -/
def State.offerAll (s : State) (keys : List FeedKey) : State :=
  (keys.filter s.isOfferable).foldl State.offer s

/-! ### Feeds -/

/-- A feed record as it is allocated (R20). -/
def Feed.fresh : Feed := ⟨.waiting, none, none, -192, false, none⟩

/-- Whether a feed is in use. -/
def State.inUse (s : State) (k : FeedKey) : Bool := (s.feed k).isSome

/-- The number of records in use (R21). -/
def State.usedCount (s : State) : Nat := allFeeds.countP s.inUse

/-- The number of free records (R21). -/
def State.freeCount (s : State) : Nat := 128 - s.usedCount

/-- A new feed allocated in WAITING and offered to the queue (R23). -/
def State.allocate (s : State) (k : FeedKey) : State := (s.setFeed k (some Feed.fresh)).offer k

/-- A feed released: its record is free and it is off the queue (R24, R25, R48). -/
def State.release (s : State) (k : FeedKey) : State := (s.setFeed k none).unqueue k

/-- The fade level of a feed (R70). -/
def FeedState.level : FeedState → Rat
  | .waiting => 0
  | .fadingIn r => r.value
  | .steady => 1
  | .fadingOut r => r.value

/-- The glide of a feed with its pending tap discarded (R24, R69). -/
def Feed.withoutPending (f : Feed) : Feed :=
  { f with glide := f.glide.map fun g => { g with pending := none } }

/-- A feed whose fade-out starts at the level it holds (R24, R72). -/
def Feed.fadeOut (f : Feed) (fadeTime : Nat) : Feed :=
  { f.withoutPending with state := .fadingOut (Ramp.start f.state.level (-stepOver fadeTime)) }

/-- A feed whose fade-in starts, or is turned to, at the level it holds (R27, R71, R73). -/
def Feed.fadeIn (f : Feed) (fadeTime : Nat) : Feed :=
  { f with state := .fadingIn (Ramp.start f.state.level (stepOver fadeTime)) }

/-- A feed dropped (R24). -/
def State.drop (s : State) (k : FeedKey) : State :=
  match s.feed k with
  | none => s
  | some f =>
    match f.state with
    | .waiting => s.release k
    | .fadingOut _ => s
    | _ =>
      if s.service.state = .standby then s.release k
      else (s.setFeed k (some (f.fadeOut s.timing.fadeTime))).unqueue k

/-! ### The desired set and reconciliation -/

/-- Whether an area serves a service (R13). -/
def AreaMode.serves (a : AreaMode) (sv : Service) : Bool :=
  match a with
  | .joined => sv == 0
  | .separate own => own == sv

/-- Whether a zone is in the desired set of a placement (R19). -/
def State.desired (s : State) (p : Placement) (z : Zone) : Bool :=
  (vget s.stations p.station).reach.getLsbD z.val && (vget s.areas (vget s.zones z).area).serves p.service

/-- One zone of the reconciliation of a placement (R26). -/
def State.reconcileZone (s : State) (src : Source) (p : Placement) (z : Zone) : State :=
  match s.desired p z, s.feed (src, z) with
  | true, none => s.allocate (src, z)
  | true, some f =>
    if f.state.isFadingOut then (s.setFeed (src, z) (some (f.fadeIn s.timing.fadeTime))).offer (src, z)
    else s.offer (src, z)
  | false, _ => s.drop (src, z)

/-- The reconciliation of one ACTIVE placement, its zones ascending (R26). -/
def State.reconcile (s : State) (src : Source) : State :=
  match s.placement src with
  | some p => if p.state = .active then allZones.foldl (fun t z => t.reconcileZone src p z) s else s
  | none => s

/-- The reconciliation of the chosen ACTIVE placements, ascending by source (R26). -/
def State.reconcileMany (s : State) (chosen : Source → Bool) : State :=
  (allSources.filter chosen).foldl State.reconcile s

/-- The zones of the desired set of an ACTIVE placement for which it holds no feed record in any state (R29). -/
def State.missingFeeds (s : State) (src : Source) : Nat :=
  match s.placement src with
  | some p => if p.state = .active then allZones.countP fun z => s.desired p z && !s.inUse (src, z) else 0
  | none => 0

/-- The new records that the reconciliation of the chosen placements needs (R29). -/
def State.recordsNeeded (s : State) (chosen : Source → Bool) : Nat :=
  ((allSources.filter chosen).map s.missingFeeds).sum

/-- A request that may allocate (R29): `written` is the part with the request's fields written, in which the chosen
placements are to be reconciled. It is refused whole where the records it needs exceed the free ones. -/
def State.poolChecked (s written : State) (chosen : Source → Bool) : ResultCode × State :=
  if s.freeCount < written.recordsNeeded chosen then (.poolFull, s)
  else (.ok, written.reconcileMany chosen)

/-! ### Gates and their drives -/

/-- The part with a gate in a new state; a detector stops when its gate leaves the counted states (R99). -/
def State.setGate (s : State) (src : Source) (g : Gate) : State :=
  let t := s.setChannel src { vget s.channels src with gate := g }
  if g.counted then t else t.setDetector src Detector.idle

/-- The drives of a gate (R86). -/
inductive Drive where
  | heldClosed
  | auto
  | forcedOpen
  | forcedShut
deriving DecidableEq, Repr

/-- The drive of a source's gate (R86). -/
def State.drive (s : State) (src : Source) : Drive :=
  if s.service.state = .standby then .heldClosed
  else if s.isPlaced src then
    match (vget s.sources src).gateMode with
    | .auto => .auto
    | .forcedOpen => .forcedOpen
    | .forcedShut => .forcedShut
  else .forcedShut

/-- The gate opening from a gain on the attack step of the moment (R86). -/
def State.openingFrom (s : State) (src : Source) (gain : Rat) : Gate :=
  .opening (Ramp.start gain (stepOver (vget s.sources src).attackTime)) false

/-- The gate closing from a gain on the release step of the moment (R86). -/
def State.closingFrom (s : State) (src : Source) (gain : Rat) : Gate :=
  .closing (Ramp.start gain (-stepOver (vget s.sources src).releaseTime))

/-- The gain from which a gate in OPENING closes: the one it holds (R91), or, where a block evaluation has turned it from
CLOSING and no frame has run since, one attack step above its lowest point (R92; log 36). -/
def turnedGain (ramp : Ramp) (turned : Bool) : Rat := if turned then min 1 (ramp.value + ramp.step) else ramp.value

/-- The gate a source's drive makes of the one it finds when the drive starts (R90, R91, R92). -/
def State.drivenGate (s : State) (src : Source) : Gate :=
  match s.drive src, s.gate src with
  | .forcedOpen, .closed => s.openingFrom src 0
  | .forcedOpen, .closing r => s.openingFrom src r.value
  | .forcedOpen, .hold _ => .opened
  | .forcedOpen, g => g
  | .forcedShut, .opened => s.closingFrom src 1
  | .forcedShut, .hold _ => s.closingFrom src 1
  | .forcedShut, .opening r turned => s.closingFrom src (turnedGain r turned)
  | .forcedShut, g => g
  | .auto, g => g
  | .heldClosed, g => g

/-- A gate taken into the course of its drive at the event that changes the drive (R86). -/
def State.takeUpDrive (s : State) (src : Source) : State := s.setGate src (s.drivenGate src)

/-- Whether a source's Ring Detector runs (R99). -/
def State.detectorRuns (s : State) (src : Source) : Bool :=
  (vget s.sources src).detectorEnable && (s.gate src).counted && s.service.state != .standby

end Sys2Proof.Machine
end

