-- ==== Sys2Proof/Machine/Operands.lean ====
section
/-! DEFINITION. The operand forms of the Control Link: payload fields read as identifiers, enumerations and clamped
numbers (R168), and values written as payload bytes (R169), by the tables of spec 12. -/

namespace Sys2Proof.Machine

/-! ### Reading (R168) -/

/-- An identifier byte, absent above its range. -/
def asId (n : Nat) (b : Byte) : Option (Fin n) := if h : b.toNat < n then some ⟨b.toNat, h⟩ else none

/-- A yes-or-no byte. -/
def asYesNo (b : Byte) : Option Bool :=
  match b.toNat with
  | 0 => some false
  | 1 => some true
  | _ => none

/-- A gate mode byte. -/
def asGateMode (b : Byte) : Option GateMode :=
  match b.toNat with
  | 0 => some .auto
  | 1 => some .forcedOpen
  | 2 => some .forcedShut
  | _ => none

/-- A notch kind byte. -/
def asNotchKind (b : Byte) : Option NotchKind :=
  match b.toNat with
  | 0 => some .fixed
  | 1 => some .dynamic
  | _ => none

/-- A fade shape byte. -/
def asFadeShape (b : Byte) : Option FadeShape :=
  match b.toNat with
  | 0 => some .linear
  | 1 => some .constantDb
  | _ => none

/-- A Cue Line edge byte. -/
def asEdge (b : Byte) : Option Edge :=
  match b.toNat with
  | 0 => some .none
  | 1 => some .rising
  | 2 => some .falling
  | 3 => some .both
  | _ => none

/-- A clock selection byte. -/
def asSelection (b : Byte) : Option ClockSelection :=
  match b.toNat with
  | 0 => some .internal
  | 1 => some .external
  | _ => none

/-- The mode of a SET_AREA with its service byte; the byte is ignored with JOINED, and SEPARATE takes 1 to 7 (R117). -/
def asAreaMode (mode service : Byte) : Option AreaMode :=
  match mode.toNat with
  | 0 => some .joined
  | 1 =>
    match asId 8 service with
    | some sv => if sv = 0 then none else some (.separate sv)
    | none => none
  | _ => none

/-- A position. -/
def asPoint (p : RawPoint) : Point := ⟨p.x.toInt, p.y.toInt, p.z.toInt⟩

/-- A placement level, clamped to −40 to +24 hdB (R18, R30). -/
def asLevel (h : Half) : Int := clampInt (-40) 24 h.toInt

/-- A notch depth, clamped to 6 to 36 hdB (R103). -/
def asDepth (b : Byte) : Nat := clampNat 6 36 b.toNat

/-- The zone record of a SET_ZONE, its numbers clamped (R7); absent where an identifier or [mute] is out of range (R8). -/
def asZoneRecord (p : ZonePayload) : Option (Zone × ZoneRecord) :=
  match asId 24 p.zone, asId 8 p.area, asYesNo p.mute with
  | some z, some a, some m =>
    some (z, {
      speaker := asPoint p.speaker
      listener := asPoint p.listener
      area := a
      baseLevel := clampInt (-192) 24 p.baseLevel.toInt
      precedenceOffset := clampNat 0 80 p.precedenceOffset.toNat
      latencyTrim := clampInt (-480) 480 p.latencyTrim.toInt
      mute := m })
  | _, _, _ => none

/-- The timing record of a SET_TIMING, its numbers clamped; absent where the shape is none of the two (R15). -/
def asTiming (p : TimingPayload) : Option Timing :=
  match asFadeShape p.fadeShape with
  | some shape =>
    some {
      glideTime := clampNat 10 500 p.glideTime.toNat
      fadeTime := clampNat 20 2000 p.fadeTime.toNat
      fadeShape := shape
      notchDecay := clampNat 10 600 p.notchDecay.toNat
      deadband := clampNat 0 50 p.deadband.toNat
      debounce := clampNat 5 100 p.debounce.toNat }
  | none => none

/-- The source record of a SET_SOURCE over the stored gate mode, its numbers clamped, the open threshold before the
close threshold, the hold time rounded down to a multiple of 10 (R81, R82). -/
def asSourceRecord (p : SourcePayload) (enable : Bool) (mode : GateMode) : SourceRecord :=
  let openAt := clampInt (-200) 0 p.openThreshold.toInt
  { trim := clampInt (-24) 48 p.trim.toInt
    gateMode := mode
    openThreshold := openAt
    closeThreshold := clampInt (-204) (openAt - 4) p.closeThreshold.toInt
    holdTime := clampNat 0 5000 p.holdTime.toNat / 10 * 10
    attackTime := clampNat 1 50 p.attackTime.toNat
    releaseTime := clampNat 50 2000 p.releaseTime.toNat
    detectorEnable := enable
    ringMargin := clampNat 24 60 p.ringMargin.toNat
    persistence := clampNat 2 16 p.persistence.toNat }

/-- The action of a SET_CUE with the parameters it uses; absent where its code or one of those is out of range (R132). -/
def asCueAction (p : CuePayload) : Option CueAction :=
  match p.action.toNat with
  | 0 => some .none
  | 1 =>
    match asId 16 p.source, asId 32 p.station, asId 8 p.service with
    | some src, some st, some sv => some (.place src st sv (asLevel p.level))
    | _, _, _ => none
  | 2 =>
    match asId 16 p.source, asId 32 p.station with
    | some src, some st => some (.move src st)
    | _, _ => none
  | 3 => (asId 16 p.source).map .retire
  | 4 =>
    match asId 16 p.source, asGateMode p.gateMode with
    | some src, some m => some (.gateMode src m)
    | _, _ => none
  | 5 => some .wake
  | _ => none

/-! ### Writing (R169) -/

/-- A small number as one byte. -/
def byteOf (n : Nat) : Byte := BitVec.ofNat 8 n

/-- A signed number as two bytes. -/
def intBytes (x : Int) : List Byte := halfBytes (BitVec.ofInt 16 x)

/-- An unsigned number as two bytes. -/
def natBytes (n : Nat) : List Byte := halfBytes (BitVec.ofNat 16 n)

/-- A tap as two bytes; absent is 0xFFFF. -/
def tapBytes (t : Option Nat) : List Byte :=
  match t with
  | some n => natBytes n
  | none => natBytes 0xFFFF

/-- Yes or no as one byte. -/
def yesNoByte (b : Bool) : Byte := if b then 1 else 0

/-- A point as six bytes. -/
def pointFieldBytes (p : Point) : List Byte := intBytes p.x ++ intBytes p.y ++ intBytes p.z

/-- The zone set of a condition. -/
def zoneSetOf (f : Zone → Bool) : ZoneSet := BitVec.ofFnLE f

/-- The source set of a condition, as two bytes: source s is bit s. -/
def sourceSetBytes (f : Source → Bool) : List Byte := halfBytes (BitVec.ofFnLE f)

/-- The code of a result (R152). -/
def ResultCode.code : ResultCode → Nat
  | .ok => 0x00
  | .unknownRequest => 0x01
  | .badLength => 0x02
  | .shortFrame => 0x03
  | .outOfRange => 0x04
  | .absent => 0x05
  | .alreadyPlaced => 0x06
  | .poolFull => 0x07
  | .inUse => 0x08
  | .tooClose => 0x09
  | .tableFull => 0x0A
  | .retiring => 0x0B

/-- The code of a fade shape. -/
def FadeShape.code : FadeShape → Nat
  | .linear => 0
  | .constantDb => 1

/-- The code of a placement state. -/
def PlacementState.code : PlacementState → Nat
  | .active => 0
  | .retiring => 1

/-- The code of a feed state. -/
def FeedState.code : FeedState → Nat
  | .waiting => 0
  | .fadingIn _ => 1
  | .steady => 2
  | .fadingOut _ => 3

/-- The code of a gate mode. -/
def GateMode.code : GateMode → Nat
  | .auto => 0
  | .forcedOpen => 1
  | .forcedShut => 2

/-- The code of a gate state. -/
def Gate.code : Gate → Nat
  | .closed => 0
  | .opening _ _ => 1
  | .opened => 2
  | .hold _ => 3
  | .closing _ => 4

/-- The code of a notch kind. -/
def NotchKind.code : NotchKind → Nat
  | .fixed => 0
  | .dynamic => 1

/-- The code of a clock selection. -/
def ClockSelection.code : ClockSelection → Nat
  | .internal => 0
  | .external => 1

/-- The code of a clock state. -/
def ClockState.code : ClockState → Nat
  | .internal => 0
  | .lockedExternal => 1
  | .awaitingExternal => 2

/-- The code of a restart cause. -/
def RestartCause.code : RestartCause → Nat
  | .powerOn => 0
  | .resetPin => 1
  | .restartRequest => 2

/-- The payload of GET_STATION (spec 12, Station). -/
def stationBytes (st : Station) : List Byte := pointFieldBytes st.position ++ zoneSetBytes st.reach

/-- The payload of GET_ZONE (spec 12, Zone record). -/
def zoneBytes (z : ZoneRecord) : List Byte :=
  pointFieldBytes z.speaker ++ pointFieldBytes z.listener ++ [byteOf z.area.val] ++ intBytes z.baseLevel ++
    [byteOf z.precedenceOffset] ++ intBytes z.latencyTrim ++ [yesNoByte z.mute]

/-- The payload of GET_AREA (spec 12, Area). -/
def areaBytes (a : AreaMode) (members : ZoneSet) : List Byte :=
  (match a with
    | .joined => [0, 0xFF]
    | .separate sv => [1, byteOf sv.val]) ++ zoneSetBytes members

/-- The payload of GET_TIMING (spec 12, Timing record). -/
def timingBytes (t : Timing) : List Byte :=
  natBytes t.glideTime ++ natBytes t.fadeTime ++ [byteOf t.fadeShape.code] ++ natBytes t.notchDecay ++
    [byteOf t.deadband, byteOf t.debounce]

/-- The payload of GET_PLACEMENT (spec 12, Placement). -/
def placementBytes (p : Placement) (feeds : ZoneSet) : List Byte :=
  [byteOf p.station.val, byteOf p.service.val] ++ intBytes p.level ++ [byteOf p.state.code] ++ zoneSetBytes feeds

/-- The [fade level] of a feed in steps of 1/32 768 (R40). -/
def FeedState.levelSteps (st : FeedState) : Nat := (nearest (st.level * 32768)).toNat

/-- The payload of GET_FEED (spec 12, Feed). -/
def feedBytes (f : Feed) (queued : Bool) : List Byte :=
  [byteOf f.state.code] ++ tapBytes f.active ++ tapBytes (f.glide.map (·.target)) ++
    tapBytes (f.glide.bind (·.pending)) ++ natBytes ((f.glide.map (·.position)).getD 0) ++
    natBytes ((f.glide.map (·.length)).getD 0) ++ natBytes f.state.levelSteps ++ intBytes f.baseGain ++
    [yesNoByte f.limited, yesNoByte queued]

/-- The payload of GET_SOURCE (spec 12, Source record). -/
def sourceBytes (r : SourceRecord) : List Byte :=
  [byteOf r.gateMode.code] ++ intBytes r.trim ++ intBytes r.openThreshold ++ intBytes r.closeThreshold ++
    natBytes r.holdTime ++ [byteOf r.attackTime] ++ natBytes r.releaseTime ++
    [yesNoByte r.detectorEnable, byteOf r.ringMargin, byteOf r.persistence]

/-- One record of a LIST_NOTCHES payload (spec 12, Notch table). -/
def notchBytes (n : Notch) : List Byte :=
  [byteOf n.band.val, byteOf n.depth, byteOf n.kind.code] ++ natBytes n.quietTime ++ [byteOf n.hits]

/-- One line of a GET_CUE_STATUS payload (spec 12, Cue record). -/
def cueBytes (c : CueLine) : List Byte :=
  [yesNoByte c.debounced, yesNoByte c.delta, yesNoByte c.refused, byteOf c.lastResult.code]

/-- The payload of GET_CLOCK (spec 12, Identity, clock and cause). -/
def clockBytes (c : ClockUnit) : List Byte :=
  [byteOf c.selection.code, byteOf c.state.code, yesNoByte c.flight.isSome,
    match c.pendingSelection with
    | some sel => byteOf sel.code
    | none => 0xFF]

/-- A set of event flags as one byte, bit 7 being 0 (R169). -/
def flagSetByte (f : BitVec 7) : Byte := f.setWidth 8

/-- A byte read as a set of event flags, bit 7 ignored (R168). -/
def asFlagSet (b : Byte) : BitVec 7 := b.setWidth 7

end Sys2Proof.Machine
end

