-- ==== Sys2Proof/Machine/Flags.lean ====
section
/-! DEFINITION. The event flags as the host sees them: Attention, the live conditions that hold a flag, the cause of
highest priority with its detail (R154 to R157). -/

namespace Sys2Proof.Machine

/-- The event flags in their order of priority (R154). -/
def EventFlag.byPriority : List EventFlag :=
  [.clock, .restarted, .notchSaturated, .limited, .cueRefused, .cue, .settled]

/-- Attention: an event flag is set whose mask bit is set (R156). -/
def State.attention (s : State) : Bool := s.link.flags &&& s.link.mask != 0

/-- Whether a Notch Table is saturated: eight records, all FIXED (R103). -/
def tableSaturated (t : List Notch) : Bool := t.length == 8 && t.all (·.kind == .fixed)

/-- Whether a source is saturated (R103). -/
def State.saturated (s : State) (src : Source) : Bool := tableSaturated (vget s.notches src)

/-- Whether a live condition holds an event flag against ACK_EVENTS (R155). -/
def State.heldFlag (s : State) (f : EventFlag) : Bool :=
  match f with
  | .clock => s.clock.state == .awaitingExternal
  | .notchSaturated => allSources.any s.saturated
  | _ => false

/-- The number of LIMITED feeds (R42, R154). -/
def State.limitedCount (s : State) : Nat :=
  allFeeds.countP fun k =>
    match s.feed k with
    | some f => f.limited
    | none => false

/-- The cause: the set and enabled event flag of highest priority (R157). -/
def State.cause (s : State) : Option EventFlag :=
  EventFlag.byPriority.find? fun f => (s.link.flags &&& s.link.mask).getLsbD f.index

/-- The detail byte of a cause (R154; spec 12, Identity, clock and cause). -/
def State.causeDetail (s : State) (f : EventFlag) : Byte :=
  match f with
  | .clock => byteOf s.clock.state.code
  | .restarted => byteOf s.link.restartCause.code
  | .notchSaturated =>
    match allSources.find? s.saturated with
    | some src => byteOf src.val
    | none => 0xFF
  | .limited => byteOf s.limitedCount
  | .cueRefused =>
    match allLines.find? fun l => (vget s.cues l).refused with
    | some l => byteOf l.val
    | none => 0
  | .cue =>
    match allLines.find? fun l => (vget s.cues l).delta with
    | some l => byteOf l.val
    | none => 0
  | .settled => 0

/-- The payload of GET_CAUSE: cause, detail, flags set (R157). -/
def State.causeBytes (s : State) : List Byte :=
  (match s.cause with
    | some f => [byteOf (f.index + 1), s.causeDetail f]
    | none => [0, 0]) ++ [flagSetByte s.link.flags]

/-- The flags that ACK_EVENTS clears of a named set: those no live condition holds (R155, R158). -/
def State.clearable (s : State) (named : BitVec 7) : BitVec 7 :=
  EventFlag.byPriority.foldl (fun acc f => if s.heldFlag f then acc &&& ~~~f.bit else acc) named

/-- The flags left after an ACK_EVENTS naming a set (R158). -/
def State.acknowledged (s : State) (named : BitVec 7) : BitVec 7 := s.link.flags &&& ~~~s.clearable named

end Sys2Proof.Machine
end

