-- ==== Sys2Proof/Machine/Link.lean ====
section
/-! DEFINITION. The Control Link: how a request is taken and answered (R148 to R151), its own requests, rejected
frames and the start of a transaction. -/

namespace Sys2Proof.Machine

/-- What the rule that owns a request answers: a result code, a payload and the part after it. -/
abbrev Reply := ResultCode × List Byte × State

/-- What a step of the part answers. -/
abbrev Answer := Host.Outcome State Fault Refusal

/-- A request refused: an empty payload, and the part as it was (R150, R152). -/
def refuse (s : State) (code : ResultCode) : Reply := (code, [], s)

/-- A writing request taken (R150). -/
def accept (s : State) : Reply := (.ok, [], s)

/-- A reading request answered with a payload (R150). -/
def readOut (s : State) (payload : List Byte) : Reply := (.ok, payload, s)

/-- An operation that answers a code alone, as a request's answer. -/
def bare (r : ResultCode × State) : Reply := (r.1, [], r.2)

/-- The end of a transaction: the receive buffer is emptied (R148). -/
def State.endTransaction (s : State) : State :=
  { s with link := { s.link with receiveBuffer := [], transaction := none } }

/-- A response put into the holding buffer at the end of its transaction (R150, R151). -/
def State.respond (s : State) (result : ResultCode) (echo : Byte) (payload : List Byte) : State :=
  { s with link := { s.link with receiveBuffer := [], transaction := none, response := ⟨result, echo, payload⟩ } }

/-- Whether the rise of chip select takes a request: not in a warm restart, nor in a transaction one has ended
(R151, R167). -/
def State.takesRequest (s : State) : Bool :=
  s.service.restart.isNone &&
    match s.link.transaction with
    | some t => !t.ended
    | none => true

/-! ### The bytes of a transaction (R148) -/

/-- The receive buffer after one more byte: those beyond the 50th are not kept. -/
def keepByte (buffer : List Byte) (b : Byte) : List Byte := if buffer.length < 50 then buffer ++ [b] else buffer

/-- The byte a transaction shifts out next: of the held response, and 0x00 for each further byte. -/
def Transaction.dataOut (t : Transaction) : Byte := t.shiftOut.headD 0x00

/-- A transaction once that byte is out. -/
def Transaction.clocked (t : Transaction) : Transaction := { t with shiftOut := t.shiftOut.tail }

/-- One byte clocked: the host's byte is shifted in, and in the same clocks one is shifted out. -/
def Link.clockByte (l : Link) (b : Byte) : Link :=
  { l with receiveBuffer := keepByte l.receiveBuffer b, transaction := l.transaction.map Transaction.clocked }

/-- The link once the host has clocked its bytes of a transaction, the receive buffer being empty at its start. -/
def Link.receive (l : Link) (bytes : List Byte) : Link := bytes.foldl Link.clockByte { l with receiveBuffer := [] }

/-- What the host reads while it clocks a number of bytes. -/
def Transaction.read : Nat → Transaction → List Byte
  | 0, _ => []
  | n + 1, t => t.dataOut :: Transaction.read n t.clocked

/-! ### Taking a request -/

/-- The result code of a frame that fails a check (R149). -/
def frameResult : FrameProblem → ResultCode
  | .shortFrame => .shortFrame
  | .unknownRequest => .unknownRequest
  | .badLength => .badLength

/-- The rise of chip select on the bytes a transaction has brought: a frame that passes the checks goes to its owning
rule, which acts, and the response is formed and replaces the one held; one that fails gets its code and an empty
payload, the echoed code 0x00 where no byte was received (R148, R149, R150; log 5). -/
def onRise (received : List Byte) (s : State) (act : State → Reply) : Answer :=
  if s.takesRequest then
    let frame := (s.link.receive received).receiveBuffer
    match frameProblem frame with
    | some p => .next (s.respond (frameResult p) (byteAt frame 0) [])
    | none =>
      let r := act s
      .next (r.2.2.respond r.1 (byteAt frame 0) r.2.1)
  else .next s.endTransaction

/-- The rise of chip select on the frame of a request. -/
def onRequest (i : Instr) (s : State) (act : State → Reply) : Answer := onRise ((encodeRequest i).getD []) s act

/-! ### The link's own requests -/

/-- NOP (R153). -/
def execNop (s : State) : Answer := onRequest .nop s accept

/-- The payload of IDENTIFY (R153; spec 12). -/
def identityBytes : List Byte := [0x24, 0x16, 3, 16, 24, 32, 128]

/-- IDENTIFY (R153). -/
def execIdentify (s : State) : Answer := onRequest .identify s fun t => readOut t identityBytes

/-- What GET_CAUSE leaves: RESTARTED or SETTLED is cleared when it is the cause returned (R157). -/
def State.afterCause (s : State) : State :=
  match s.cause with
  | some .restarted => s.lower .restarted
  | some .settled => s.lower .settled
  | _ => s

/-- GET_CAUSE (R157). -/
def execGetCause (s : State) : Answer := onRequest .getCause s fun t => (.ok, t.causeBytes, t.afterCause)

/-- ACK_EVENTS (R155, R158). -/
def execAckEvents (flags : Byte) (s : State) : Answer :=
  onRequest (.ackEvents flags) s fun t =>
    let left := t.acknowledged (asFlagSet flags)
    (.ok, [flagSetByte left], { t with link := { t.link with flags := left } })

/-- SET_EVENT_MASK (R156). -/
def execSetEventMask (mask : Byte) (s : State) : Answer :=
  onRequest (.setEventMask mask) s fun t => accept { t with link := { t.link with mask := asFlagSet mask } }

/-! ### Transactions -/

/-- FRAME_REJECTED: the frame is discarded, and a response with its code replaces the one held (R149). Bytes that pass
every check are no rejected frame (log 4). -/
def execFrameRejected (received : List Byte) (s : State) : Answer :=
  if (frameProblem (s.link.receive received).receiveBuffer).isSome then onRise received s accept else .next s

/-- The status byte: the attention-pending indication above the result code (spec 12, Frames). -/
def statusByte (attention : Bool) (code : ResultCode) : Byte :=
  byteOf ((if attention then 128 else 0) + code.code)

/-- The bytes of the held response as they are shifted out (R148, R150). -/
def Response.bytes (r : Response) (attention : Bool) : List Byte :=
  statusByte attention r.result :: r.echo :: byteOf r.payload.length :: r.payload

/-- TRANSACTION_START: the held response begins to shift out with the attention-pending indication of this moment
(R148, R150); in a warm restart 0x00 bytes are shifted out and the transaction takes no request (R151, R167). A fall with no
rise since the last cannot happen, and leaves the transaction in progress as it is (log 4). -/
def execTransactionStart (s : State) : Answer :=
  .next
    (if s.link.transaction.isSome then s
    else { s with
      link := { s.link with
        receiveBuffer := []
        transaction :=
          if s.service.restart.isSome then some ⟨[], true⟩
          else some ⟨s.link.response.bytes s.attention, false⟩ } })

end Sys2Proof.Machine
end

