-- ==== Sys2Proof/Machine/Placements.lean ====
section
/-! DEFINITION. The placement requests and the lookups of the Placement Table and the Feed Pool (R30 to R42). PLACE,
MOVE and RETIRE are operations of their own, since a Cue Line carries them out too (R37, R130). -/

namespace Sys2Proof.Machine

/-! ### The placement operations -/

/-- The end of a request whose pool check has been made: `finish` is what it does beside the reconciliation. -/
def afterPoolCheck (before : State) (checked : ResultCode × State) (finish : State → State) : ResultCode × State :=
  if checked.1 = .ok then (.ok, before.closeEvent (finish checked.2)) else (checked.1, before)

/-- PLACE from its second check on (R30, R31, R32); the level is clamped already. -/
def placeOp (src : Source) (st : StationId) (sv : Service) (level : Int) (s : State) : ResultCode × State :=
  if s.isPlaced src then (.alreadyPlaced, s)
  else if !(vget s.stations st).present then (.absent, s)
  else
    let written := s.setPlacement src (some ⟨st, sv, level, .active⟩)
    afterPoolCheck s (s.poolChecked written (· == src)) fun t => t.takeUpDrive src

/-- MOVE from its second check on (R33). -/
def moveOp (src : Source) (st : StationId) (s : State) : ResultCode × State :=
  match s.placement src with
  | none => (.absent, s)
  | some p =>
    if p.state = .retiring then (.retiring, s)
    else if !(vget s.stations st).present then (.absent, s)
    else if p.station = st then (.ok, s)
    else
      let written := s.setPlacement src (some { p with station := st })
      afterPoolCheck s (s.poolChecked written (· == src)) id

/-- Whether a placement holds any feed. -/
def State.hasFeeds (s : State) (src : Source) : Bool := allZones.any fun z => s.inUse (src, z)

/-- A RETIRING placement with no feed left is removed (R36). -/
def State.removeIfEmpty (s : State) (src : Source) : State :=
  match s.placement src with
  | some p => if p.state = .retiring ∧ !s.hasFeeds src then s.setPlacement src none else s
  | none => s

/-- RETIRE from its second check on (R35, R36, R91). -/
def retireOp (src : Source) (s : State) : ResultCode × State :=
  match s.placement src with
  | none => (.absent, s)
  | some p =>
    if p.state = .retiring then (.ok, s)
    else
      let marked := s.setPlacement src (some { p with state := .retiring })
      let dropped := allZones.foldl (fun t z => t.drop (src, z)) marked
      (.ok, s.closeEvent ((dropped.removeIfEmpty src).takeUpDrive src))

/-- The feeds of the placements of a choice of sources, ascending. -/
def feedsOf (chosen : Source → Bool) : List FeedKey := allFeeds.filter fun k => chosen k.1

/-- SET_LEVEL from its second check on (R34). -/
def setLevelOp (src : Source) (level : Int) (s : State) : ResultCode × State :=
  match s.placement src with
  | none => (.absent, s)
  | some p =>
    if p.state = .retiring then (.retiring, s)
    else
      let written := s.setPlacement src (some { p with level := level })
      (.ok, s.closeEvent (written.offerAll (feedsOf (· == src))))

/-! ### The requests -/

/-- PLACE (R30). -/
def execPlace (source station service : Byte) (level : Half) (s : State) : Answer :=
  onRequest (.place source station service level) s fun t =>
    match asId 16 source, asId 32 station, asId 8 service with
    | some src, some st, some sv => bare (placeOp src st sv (asLevel level) t)
    | _, _, _ => refuse t .outOfRange

/-- MOVE (R33). -/
def execMove (source station : Byte) (s : State) : Answer :=
  onRequest (.move source station) s fun t =>
    match asId 16 source, asId 32 station with
    | some src, some st => bare (moveOp src st t)
    | _, _ => refuse t .outOfRange

/-- SET_LEVEL (R34). -/
def execSetLevel (source : Byte) (level : Half) (s : State) : Answer :=
  onRequest (.setLevel source level) s fun t =>
    match asId 16 source with
    | some src => bare (setLevelOp src (asLevel level) t)
    | none => refuse t .outOfRange

/-- RETIRE (R35). -/
def execRetire (source : Byte) (s : State) : Answer :=
  onRequest (.retire source) s fun t =>
    match asId 16 source with
    | some src => bare (retireOp src t)
    | none => refuse t .outOfRange

/-! ### The lookups -/

/-- GET_PLACEMENT (R38). -/
def execGetPlacement (source : Byte) (s : State) : Answer :=
  onRequest (.getPlacement source) s fun t =>
    match asId 16 source with
    | some src =>
      match t.placement src with
      | some p => readOut t (placementBytes p (zoneSetOf fun z => t.inUse (src, z)))
      | none => refuse t .absent
    | none => refuse t .outOfRange

/-- Whether a source's placement is ACTIVE and names a station (R39). -/
def State.standsAt (s : State) (st : StationId) (src : Source) : Bool :=
  match s.placement src with
  | some p => p.state == .active && p.station == st
  | none => false

/-- FIND_AT_STATION (R39). -/
def execFindAtStation (station : Byte) (s : State) : Answer :=
  onRequest (.findAtStation station) s fun t =>
    match asId 32 station with
    | some st => readOut t (sourceSetBytes (t.standsAt st))
    | none => refuse t .outOfRange

/-- GET_FEED (R40). -/
def execGetFeed (source zone : Byte) (s : State) : Answer :=
  onRequest (.getFeed source zone) s fun t =>
    match asId 16 source, asId 24 zone with
    | some src, some z =>
      match t.feed (src, z) with
      | some f => readOut t (feedBytes f (t.queue.contains (src, z)))
      | none => refuse t .absent
    | _, _ => refuse t .outOfRange

/-- Whether a feed is in use and LIMITED (R42). -/
def State.isLimitedFeed (s : State) (k : FeedKey) : Bool :=
  match s.feed k with
  | some f => f.limited
  | none => false

/-- The payload of LIST_LIMITED (R42; spec 12, Pool and alignment). -/
def State.limitedBytes (s : State) : List Byte :=
  (allSources.flatMap fun src => zoneSetBytes (zoneSetOf fun z => s.isLimitedFeed (src, z))) ++
    [byteOf s.limitedCount]

/-- LIST_LIMITED: the list, and the LIMITED flag cleared (R42, R159). -/
def execListLimited (s : State) : Answer :=
  onRequest .listLimited s fun t => (.ok, t.limitedBytes, t.lower .limited)

/-- The number of feeds in use whose state has a code (R41). -/
def State.countInState (s : State) (code : Nat) : Nat :=
  allFeeds.countP fun k =>
    match s.feed k with
    | some f => f.state.code == code
    | none => false

/-- The payload of GET_POOL (R41; spec 12, Pool and alignment). -/
def State.poolBytes (s : State) : List Byte :=
  [byteOf s.usedCount, byteOf s.freeCount] ++ [0, 1, 2, 3].map fun code => byteOf (s.countInState code)

/-- GET_POOL (R41). -/
def execGetPool (s : State) : Answer := onRequest .getPool s fun t => readOut t t.poolBytes

end Sys2Proof.Machine
end

