-- ==== Sys2Proof/Machine/Fades.lean ====
section
/-! DEFINITION. The completions of glides, fades and gain movements (R25, R67, R71, R72, R144). Each ends the work of a
feed that the frames have brought to its end (log 2), and does nothing to any other feed (log 4). -/

namespace Sys2Proof.Machine

/-- A glide to a tap, at its start (R64). -/
def Glide.start (target glideTime : Nat) : Glide := ⟨target, none, 0, glideTime * 48⟩

/-- A feed whose glide has completed: the target is the active tap, and a pending tap starts a new glide (R67). -/
def Feed.glideEnded (f : Feed) (glideTime : Nat) : Feed :=
  match f.glide with
  | some g => { f with active := some g.target, glide := g.pending.map fun tap => Glide.start tap glideTime }
  | none => f

/-- Whether a feed's glide has reached its length (R67). -/
def Feed.glideDue (f : Feed) : Bool := f.glide.any fun g => decide (g.length ≤ g.position)

/-- The completion of one feed's glide (R67). -/
def State.completeGlide (s : State) (k : FeedKey) : State :=
  match s.feed k with
  | some f =>
    if f.glideDue then s.closeEvent (s.setFeed k (some (f.glideEnded s.timing.glideTime))) else s
  | none => s

/-- The completion of one feed's fade-in (R71). -/
def State.completeFadeIn (s : State) (k : FeedKey) : State :=
  match s.feed k with
  | some f =>
    match f.state with
    | .fadingIn r => if r.due then s.closeEvent (s.setFeed k (some { f with state := .steady })) else s
    | _ => s
  | none => s

/-- The completion of one feed's fade-out: the release, and the removal of a RETIRING placement it leaves empty
(R25, R36, R72). -/
def State.completeFadeOut (s : State) (k : FeedKey) : State :=
  match s.feed k with
  | some f =>
    match f.state with
    | .fadingOut r => if r.due then s.closeEvent ((s.release k).removeIfEmpty k.1) else s
    | _ => s
  | none => s

/-- A feed whose gain movement has ended (R144). -/
def Feed.gainArrived (f : Feed) : Feed :=
  { f with smoothing := f.smoothing.map fun sm => { sm with factor := sm.factor.finish } }

/-- Whether all frames of the movement of a feed's applied factor have run (R144). -/
def Feed.gainDue (f : Feed) : Bool := f.smoothing.any fun sm => sm.factor.due

/-- The completion of one feed's gain movement (R144). -/
def State.completeGain (s : State) (k : FeedKey) : State :=
  match s.feed k with
  | some f => if f.gainDue then s.setFeed k (some f.gainArrived) else s
  | none => s

/-- GLIDE_COMPLETE (R67). -/
def execGlideComplete (source : Source) (zone : Zone) (s : State) : Answer := .next (s.completeGlide (source, zone))

/-- FADE_IN_COMPLETE (R71). -/
def execFadeInComplete (source : Source) (zone : Zone) (s : State) : Answer := .next (s.completeFadeIn (source, zone))

/-- FADE_OUT_COMPLETE (R25). -/
def execFadeOutComplete (source : Source) (zone : Zone) (s : State) : Answer := .next (s.completeFadeOut (source, zone))

/-- GAIN_MOVEMENT_COMPLETE (R144). -/
def execGainMovementComplete (source : Source) (zone : Zone) (s : State) : Answer := .next (s.completeGain (source, zone))

end Sys2Proof.Machine
end

