-- ==== Sys2Proof/Machine/Alignment.lean ====
section
/-! DEFINITION. The Alignment Unit: one derivation with what it does to the feed's taps, and the temperature
(R49, R50, R55, R59 to R66). -/

namespace Sys2Proof.Machine

/-- A derived delay applied outside STANDBY (R65). -/
def Feed.applyDelay (f : Feed) (delay : Nat) (timing : Timing) : Feed :=
  match f.state, f.glide with
  | .waiting, _ => { f with active := some delay }.fadeIn timing.fadeTime
  | _, none =>
    if f.active = some delay then f else { f with glide := some (Glide.start delay timing.glideTime) }
  | _, some g =>
    if delay = g.target then { f with glide := some { g with pending := none } }
    else { f with glide := some { g with pending := some delay } }

/-- A derived delay applied in STANDBY: the active tap at once, and a WAITING feed becomes STEADY (R66). -/
def Feed.applyDelayStandby (f : Feed) (delay : Nat) : Feed :=
  { f with
    active := some delay
    glide := none
    state := match f.state with
      | .waiting => .steady
      | st => st }

/-- What a derivation makes of a feed: delay, base gain and limited mark (R50). -/
def State.derivedFeed (s : State) (k : FeedKey) (f : Feed) (p : Placement) : Feed :=
  let zone := vget s.zones k.2
  let total := totalDelay (vget s.stations p.station).position zone s.temperatureInUse
  let g := { f with
    baseGain := baseGainOf zone.baseLevel p.level
    limited := isLimited total }
  if s.service.state = .standby then g.applyDelayStandby (derivedDelay total)
  else g.applyDelay (derivedDelay total) s.timing

/-- The derivation of one feed that has left the queue; LIMITED is raised when its mark goes from no to yes (R55). -/
def State.deriveFeed (s : State) (k : FeedKey) (f : Feed) (p : Placement) : State :=
  let g := s.derivedFeed k f p
  let t := s.setFeed k (some g)
  if g.limited && !f.limited then t.raise .limited else t

/-- The Alignment Unit takes the feed at the head of the queue, as one event; an empty queue gives it nothing (R49). -/
def State.derive (s : State) : State :=
  match s.queue with
  | [] => s
  | k :: rest =>
    let t := { s with queue := rest }
    match s.feed k, s.placement k.1 with
    | some f, some p => s.closeEvent (if f.state.isFadingOut then t else t.deriveFeed k f p)
    | _, _ => s.closeEvent t

/-- DERIVATION (R49). -/
def execDerivation (s : State) : Answer := .next s.derive

/-- Whether a report is adopted (R60). -/
def adopts (deadband : Nat) (reported inUse : Int) : Bool :=
  let difference := (reported - inUse).natAbs
  if deadband = 0 then decide (0 < difference) else decide (deadband ≤ difference)

/-- SET_TEMPERATURE with the value clamped already (R59, R60). -/
def reportTemperature (t : Int) (s : State) : State :=
  let stored := { s with reportedTemperature := t }
  if adopts s.timing.deadband t s.temperatureInUse then
    s.closeEvent ({ stored with temperatureInUse := t }.offerAll allFeeds)
  else stored

/-- SET_TEMPERATURE (R59). -/
def execSetTemperature (temperature : Half) (s : State) : Answer :=
  onRequest (.setTemperature temperature) s fun t => accept (reportTemperature (clampInt (-100) 400 temperature.toInt) t)

/-- The payload of GET_ALIGNMENT (R62; spec 12, Pool and alignment). -/
def State.alignmentBytes (s : State) : List Byte :=
  intBytes s.reportedTemperature ++ intBytes s.temperatureInUse ++ [byteOf s.queue.length, yesNoByte s.settled]

/-- GET_ALIGNMENT (R62). -/
def execGetAlignment (s : State) : Answer := onRequest .getAlignment s fun t => readOut t t.alignmentBytes

end Sys2Proof.Machine
end

