-- ==== Sys2Proof/Machine/Building.lean ====
section
/-! DEFINITION. The Building Store: stations, zones and areas (R1 to R14, R117 to R126). -/

namespace Sys2Proof.Machine

/-! ### Stations -/

/-- The part with a station record written. -/
def State.writeStation (s : State) (st : StationId) (r : Station) : State :=
  { s with stations := vset s.stations st r }

/-- SET_STATION from its second check on (R2, R3, R4). -/
def setStationOp (st : StationId) (position : Point) (reach : ZoneSet) (s : State) : ResultCode × State :=
  let old := vget s.stations st
  let written := s.writeStation st ⟨true, position, reach⟩
  if !old.present then (.ok, written)
  else if old.reach ≠ reach then afterPoolCheck s (s.poolChecked written (s.standsAt st)) id
  else if old.position ≠ position then (.ok, s.closeEvent (written.offerAll (feedsOf (s.standsAt st))))
  else (.ok, s)

/-- SET_STATION (R2). -/
def execSetStation (station : Byte) (position : RawPoint) (reach : ZoneSet) (s : State) : Answer :=
  onRequest (.setStation station position reach) s fun t =>
    match asId 32 station with
    | some st => bare (setStationOp st (asPoint position) reach t)
    | none => refuse t .outOfRange

/-- GET_STATION (R5). -/
def execGetStation (station : Byte) (s : State) : Answer :=
  onRequest (.getStation station) s fun t =>
    match asId 32 station with
    | some st =>
      if (vget t.stations st).present then readOut t (stationBytes (vget t.stations st)) else refuse t .absent
    | none => refuse t .outOfRange

/-- CLEAR_STATION (R6). -/
def execClearStation (station : Byte) (s : State) : Answer :=
  onRequest (.clearStation station) s fun t =>
    match asId 32 station with
    | some st =>
      if allSources.any (t.standsAt st) then refuse t .inUse
      else if (vget t.stations st).present then accept (t.writeStation st Station.reset)
      else accept t
    | none => refuse t .outOfRange

/-! ### Zones -/

/-- Whether a SET_ZONE makes a value change (R8). -/
def valueChanges (old new : ZoneRecord) : Bool :=
  !(old.speaker == new.speaker && old.listener == new.listener && old.baseLevel == new.baseLevel &&
    old.precedenceOffset == new.precedenceOffset && old.latencyTrim == new.latencyTrim)

/-- The mute ramp of a zone started, or turned where it stands (R11, R145). -/
def Mixer.muteTo (m : Mixer) (mute : Bool) : Mixer :=
  { m with mute := Ramp.start m.mute.shown (if mute then -(1 / 960) else 1 / 960) }

/-- The part with a zone record written and a mute change handed to the zone's mixer (R8, R11). -/
def State.writeZone (s : State) (z : Zone) (r : ZoneRecord) : State :=
  { s with
    zones := vset s.zones z r
    mixers := if (vget s.zones z).mute = r.mute then s.mixers else vset s.mixers z ((vget s.mixers z).muteTo r.mute) }

/-- SET_ZONE from its fourth check on (R8, R9, R10, R11). -/
def setZoneOp (z : Zone) (r : ZoneRecord) (s : State) : ResultCode × State :=
  let old := vget s.zones z
  let written := s.writeZone z r
  if old.area ≠ r.area then afterPoolCheck s (s.poolChecked written fun _ => true) id
  else if valueChanges old r then
    (.ok, s.closeEvent (written.offerAll (allSources.map fun src => (src, z))))
  else (.ok, written)

/-- SET_ZONE (R8). -/
def execSetZone (payload : ZonePayload) (s : State) : Answer :=
  onRequest (.setZone payload) s fun t =>
    match asZoneRecord payload with
    | some (z, r) => bare (setZoneOp z r t)
    | none => refuse t .outOfRange

/-- GET_ZONE (R12). -/
def execGetZone (zone : Byte) (s : State) : Answer :=
  onRequest (.getZone zone) s fun t =>
    match asId 24 zone with
    | some z => readOut t (zoneBytes (vget t.zones z))
    | none => refuse t .outOfRange

/-! ### Areas -/

/-- SET_AREA from its fifth check on (R117 to R120). -/
def setAreaOp (a : AreaId) (mode : AreaMode) (s : State) : ResultCode × State :=
  if vget s.areas a = mode then (.ok, s)
  else afterPoolCheck s (s.poolChecked { s with areas := vset s.areas a mode } fun _ => true) id

/-- SET_AREA (R117). -/
def execSetArea (area mode service : Byte) (s : State) : Answer :=
  onRequest (.setArea area mode service) s fun t =>
    match asId 8 area, asAreaMode mode service with
    | some a, some m => if a = 0 then refuse t .outOfRange else bare (setAreaOp a m t)
    | _, _ => refuse t .outOfRange

/-- GET_AREA (R126). -/
def execGetArea (area : Byte) (s : State) : Answer :=
  onRequest (.getArea area) s fun t =>
    match asId 8 area with
    | some a => readOut t (areaBytes (vget t.areas a) (zoneSetOf fun z => (vget t.zones z).area == a))
    | none => refuse t .outOfRange

end Sys2Proof.Machine
end

