-- ==== Sys2Proof/Machine/Channels.lean ====
section
/-! DEFINITION. The Input Channels: source records, the gate's block evaluation and ramps, the meters (R81 to R98). -/

namespace Sys2Proof.Machine

/-! ### Source records -/

/-- What a written source record does to the channel: a trim change starts a 480-frame ramp from the factor reached
(R84), and a changed hold time reloads a hold timer that runs (R94). -/
def Channel.takeSettings (c : Channel) (old new : SourceRecord) : Channel :=
  { c with
    trimFactor := if old.trim = new.trim then c.trimFactor else c.trimFactor.toward (factorOf new.trim) 480
    gate := match c.gate with
      | .hold timer => if old.holdTime = new.holdTime then .hold timer else .hold new.holdTime
      | g => g }

/-- SET_SOURCE with its record read (R82, R94, R102). -/
def setSourceOp (src : Source) (r : SourceRecord) (s : State) : State :=
  let old := vget s.sources src
  let t := { s with sources := vset s.sources src r }
  let t := t.setChannel src ((vget t.channels src).takeSettings old r)
  if r.detectorEnable then t else t.setDetector src Detector.idle

/-- SET_SOURCE (R82). -/
def execSetSource (payload : SourcePayload) (s : State) : Answer :=
  onRequest (.setSource payload) s fun t =>
    match asId 16 payload.source, asYesNo payload.detectorEnable with
    | some src, some enable =>
      accept (setSourceOp src (asSourceRecord payload enable (vget t.sources src).gateMode) t)
    | _, _ => refuse t .outOfRange

/-- GET_SOURCE (R83). -/
def execGetSource (source : Byte) (s : State) : Answer :=
  onRequest (.getSource source) s fun t =>
    match asId 16 source with
    | some src => readOut t (sourceBytes (vget t.sources src))
    | none => refuse t .outOfRange

/-- The part with a source's gate mode stored. -/
def State.storeGateMode (s : State) (src : Source) (m : GateMode) : State :=
  { s with sources := vset s.sources src { vget s.sources src with gateMode := m } }

/-- SET_GATE_MODE with its fields read (R93). -/
def setGateModeOp (src : Source) (m : GateMode) (s : State) : ResultCode × State :=
  if (vget s.sources src).gateMode = m then (.ok, s)
  else
    let t := s.storeGateMode src m
    if s.isPlaced src && s.service.state != .standby then (.ok, s.closeEvent (t.takeUpDrive src)) else (.ok, t)

/-- SET_GATE_MODE (R93). -/
def execSetGateMode (source mode : Byte) (s : State) : Answer :=
  onRequest (.setGateMode source mode) s fun t =>
    match asId 16 source, asGateMode mode with
    | some src, some m => bare (setGateModeOp src m t)
    | _, _ => refuse t .outOfRange

/-- The payload of GET_METERS (R97; spec 12, Meters). -/
def State.meterBytes (s : State) : List Byte :=
  allSources.flatMap fun src => intBytes (vget s.channels src).level ++ [byteOf (s.gate src).code]

/-- GET_METERS (R97). -/
def execGetMeters (s : State) : Answer := onRequest .getMeters s fun t => readOut t t.meterBytes

/-! ### The gate -/

/-- What a block evaluation makes of a gate under the AUTO drive, by the new level (R87, R88, R89). -/
def State.evaluatedGate (s : State) (src : Source) (level : Int) : Gate :=
  let r := vget s.sources src
  match s.gate src with
  | .closed => if r.openThreshold ≤ level then s.openingFrom src 0 else .closed
  | .opening ramp turned => .opening ramp turned
  | .opened =>
    if r.closeThreshold ≤ level then .opened
    else if r.holdTime = 0 then s.closingFrom src 1
    else .hold r.holdTime
  | .hold timer =>
    if r.closeThreshold ≤ level then .opened
    else if timer ≤ 10 then s.closingFrom src 1
    else .hold (timer - 10)
  | .closing ramp =>
    if r.openThreshold ≤ level then .opening (Ramp.start ramp.value (stepOver r.attackTime)) true else .closing ramp

/-- The block evaluation of one channel: the level is written, then an AUTO gate compares it (R85). -/
def State.evaluateChannel (s : State) (src : Source) : State :=
  let c := vget s.channels src
  let level := blockLevel c.blockEnergy
  let t := s.setChannel src { c with level := level, blockEnergy := 0 }
  if t.drive src = .auto then t.setGate src (t.evaluatedGate src level) else t

/-- The block evaluation of all channels at the end of a block of 480 frames, and the next block's start (R85). -/
def State.evaluateBlock (s : State) : State :=
  if 480 ≤ s.blockCount then s.closeEvent { allSources.foldl State.evaluateChannel s with blockCount := 0 } else s

/-- The expiry of one gate's hold, at the end of a block whose evaluation makes it: the new level is written and the
gate leaves the counted states, from OPEN where the hold time is 0 (R85, R88). The block's samples stay for the evaluation of
all channels, which writes the same level. -/
def State.expireHold (s : State) (src : Source) : State :=
  let c := vget s.channels src
  let level := blockLevel c.blockEnergy
  let gate := s.evaluatedGate src level
  if 480 ≤ s.blockCount ∧ s.drive src = .auto ∧ c.gate.counted = true ∧ gate.counted = false then
    s.closeEvent ((s.setChannel src { c with level := level }).setGate src gate)
  else s

/-- The completion of one gate's opening ramp (R87). -/
def State.completeOpening (s : State) (src : Source) : State :=
  match s.gate src with
  | .opening r _ => if r.due then s.closeEvent (s.setGate src .opened) else s
  | _ => s

/-- The completion of one gate's closing ramp (R89). -/
def State.completeClosing (s : State) (src : Source) : State :=
  match s.gate src with
  | .closing r => if r.due then s.closeEvent (s.setGate src .closed) else s
  | _ => s

/-- The completion of one channel's trim ramp (R84). -/
def State.completeTrim (s : State) (src : Source) : State :=
  let c := vget s.channels src
  if c.trimFactor.due then s.setChannel src { c with trimFactor := c.trimFactor.finish } else s

/-- BLOCK_EVALUATION (R85). -/
def execBlockEvaluation (s : State) : Answer := .next s.evaluateBlock

/-- HOLD_EXPIRY (R88). -/
def execHoldExpiry (source : Source) (s : State) : Answer := .next (s.expireHold source)

/-- OPENING_COMPLETE (R87). -/
def execOpeningComplete (source : Source) (s : State) : Answer := .next (s.completeOpening source)

/-- CLOSING_COMPLETE (R89). -/
def execClosingComplete (source : Source) (s : State) : Answer := .next (s.completeClosing source)

/-- TRIM_RAMP_COMPLETE (R84). -/
def execTrimRampComplete (source : Source) (s : State) : Answer := .next (s.completeTrim source)

end Sys2Proof.Machine
end

