-- ==== Sys2Proof/Machine/Notches.lean ====
section
/-! DEFINITION. Ring Detectors, Notch Tables and notch sections (R99 to R116). A Notch Table is a list of its records
in ascending band order. -/

namespace Sys2Proof.Machine

/-! ### Notch sections (R114) -/

/-- A section tied to a notch placed: its cut rises from 0 to the depth over 2400 frames. -/
def NotchSection.placed (band : Band) (depth : Nat) : NotchSection :=
  ⟨band, false, (Slide.rest 0).toward depth 2400, FilterMemory.empty⟩

/-- Whether a section belongs to the notch of a band. -/
def NotchSection.serves (b : Band) : Option NotchSection → Bool
  | some sec => sec.band == b && !sec.outgoing
  | none => false

/-- The frames left of an outgoing section's movement; the earliest started has the fewest. -/
def outgoingLeft : Option NotchSection → Option Nat
  | some sec => if sec.outgoing then some (sec.cut.left.getD 0) else none
  | none => none

/-- The earlier started of the earliest outgoing section so far and one more section (log 18). -/
def earlierOutgoing (secs : Vector (Option NotchSection) 16) (best : Option SectionSlot) (i : SectionSlot) :
    Option SectionSlot :=
  match outgoingLeft (vget secs i), best with
  | none, b => b
  | some _, none => some i
  | some n, some j => if n < (outgoingLeft (vget secs j)).getD 0 then some i else some j

/-- The section a new notch takes: the first free one, else the outgoing one whose movement started earliest, the
lower-numbered where two started together (log 18). -/
def sectionFor (secs : Vector (Option NotchSection) 16) : Option SectionSlot :=
  match allSlots.find? fun i => (vget secs i).isNone with
  | some i => some i
  | none => allSlots.foldl (earlierOutgoing secs) none

/-- A section given to a new notch. -/
def placeSection (secs : Vector (Option NotchSection) 16) (band : Band) (depth : Nat) :
    Vector (Option NotchSection) 16 :=
  match sectionFor secs with
  | some i => vset secs i (some (NotchSection.placed band depth))
  | none => secs

/-- The section of a notch moved toward a new depth. -/
def retuneSection (secs : Vector (Option NotchSection) 16) (band : Band) (depth : Nat) :
    Vector (Option NotchSection) 16 :=
  vgen fun i =>
    (vget secs i).map fun sec =>
      if NotchSection.serves band (some sec) then { sec with cut := sec.cut.toward depth 2400 } else sec

/-- The section of a notch that leaves the table becomes outgoing and moves toward 0. -/
def retireSection (secs : Vector (Option NotchSection) 16) (band : Band) : Vector (Option NotchSection) 16 :=
  vgen fun i =>
    (vget secs i).map fun sec =>
      if NotchSection.serves band (some sec) then { sec with outgoing := true, cut := sec.cut.toward 0 2400 } else sec

/-- The sections of a table set at once to its depths, the rest free (R116). Which section serves which notch is open: the i-th
record in ascending band order takes section i (DESIGN CHOICE, log 18), with no filter memory (log 8). -/
def sectionsAtRest (table : List Notch) : Vector (Option NotchSection) 16 :=
  vgen fun i => (table[i.val]?).map fun n => ⟨n.band, false, Slide.rest n.depth, FilterMemory.empty⟩

/-- The completion of a section's movement; an outgoing one becomes free. -/
def NotchSection.arrived (sec : NotchSection) : Option NotchSection :=
  if sec.outgoing then none else some { sec with cut := sec.cut.finish }

/-! ### Notch Tables (R103 to R106) -/

/-- A record put into its ascending place. -/
def insertNotch (n : Notch) : List Notch → List Notch
  | [] => [n]
  | m :: rest => if n.band < m.band then n :: m :: rest else m :: insertNotch n rest

/-- The table without the record of a band. -/
def removeNotch (b : Band) (t : List Notch) : List Notch := t.filter fun n => n.band ≠ b

/-- The table with the record of a band changed. -/
def changeNotch (b : Band) (f : Notch → Notch) (t : List Notch) : List Notch :=
  t.map fun n => if n.band = b then f n else n

/-- The record of exactly a band. -/
def notchAt (b : Band) (t : List Notch) : Option Notch := t.find? fun n => n.band == b

/-- Whether a record lies within one band of a band. -/
def Notch.near (b : Band) (n : Notch) : Bool := decide (n.band.val ≤ b.val + 1) && decide (b.val ≤ n.band.val + 1)

/-- The matching notch of a candidate: the nearer of two, the lower of two equally near (R104). -/
def matchingNotch (b : Band) (t : List Notch) : Option Notch :=
  match notchAt b t with
  | some n => some n
  | none => t.find? (Notch.near b)

/-- Whether `n` is a weaker DYNAMIC notch than `m`: shallower, or as deep and longer quiet, or both equal and of a
lower band (R105). -/
def Notch.weaker (n m : Notch) : Bool :=
  decide (n.depth < m.depth) ||
    (n.depth == m.depth &&
      (decide (m.quietTime < n.quietTime) || (n.quietTime == m.quietTime && decide (n.band < m.band))))

/-- The weaker of the weakest DYNAMIC notch so far and one more record (R105). -/
def weakerChoice (best : Option Notch) (n : Notch) : Option Notch :=
  if n.kind = .dynamic then
    match best with
    | none => some n
    | some m => if n.weaker m then some n else some m
  else best

/-- The weakest DYNAMIC notch of a table (R105). -/
def weakestDynamic (t : List Notch) : Option Notch := t.foldl weakerChoice none

/-- The part with a source's Notch Table and sections replaced. -/
def State.setTable (s : State) (src : Source) (t : List Notch) (secs : Vector (Option NotchSection) 16) : State :=
  (s.setNotches src t).setSections src secs

/-- A new notch placed where the table is not saturated: a full table evicts its weakest DYNAMIC notch (R105, R109). -/
def State.placeNotch (s : State) (src : Source) (n : Notch) : State :=
  let t := vget s.notches src
  let secs := vget s.sections src
  if t.length < 8 then s.setTable src (insertNotch n t) (placeSection secs n.band n.depth)
  else
    match weakestDynamic t with
    | some w =>
      s.setTable src (insertNotch n (removeNotch w.band t))
        (placeSection (retireSection secs w.band) n.band n.depth)
    | none => s

/-- The record of a band removed with its section (R107, R111). -/
def State.dropNotch (s : State) (src : Source) (b : Band) : State :=
  s.setTable src (removeNotch b (vget s.notches src)) (retireSection (vget s.sections src) b)

/-- The record of a band rewritten; its section moves where the depth changes (R104, R107, R110, R114). -/
def State.rewriteNotch (s : State) (src : Source) (old new : Notch) : State :=
  s.setTable src (changeNotch old.band (fun _ => new) (vget s.notches src))
    (if old.depth = new.depth then vget s.sections src else retuneSection (vget s.sections src) old.band new.depth)

/-- A notch hit by a candidate (R104). -/
def Notch.hit (n : Notch) : Notch :=
  { n with depth := min 36 (n.depth + 6), hits := min 255 (n.hits + 1), quietTime := 0 }

/-- A ring candidate handled by the Notch Table (R104, R105, R106). -/
def State.handleCandidate (s : State) (src : Source) (b : Band) : State :=
  match matchingNotch b (vget s.notches src) with
  | some n => s.rewriteNotch src n n.hit
  | none =>
    if s.saturated src then s.raise .notchSaturated
    else s.placeNotch src ⟨b, 12, .dynamic, 0, 1⟩

/-- A detector whose run has ended, the window in progress going on (R101). -/
def Detector.endRun (d : Detector) : Detector := { d with count := 0, runBand := none }

/-- A ring candidate handed over and handled, as one event (R101). -/
def State.handOver (s : State) (src : Source) (b : Band) : State :=
  (s.setDetector src (vget s.detectors src).endRun).handleCandidate src b

/-! ### The Ring Detector (R100, R101) -/

/-- The band of the highest level, the lowest of those that share it (R100). -/
def highestBand (levels : Band → Int) : Band :=
  allBands.foldl (fun best b => if levels best < levels b then b else best) 0

/-- The mean of the 208 levels, rounded down (R100). -/
def meanLevel (levels : Band → Int) : Int := (allBands.map levels).sum / 208

/-- The candidate band of a window's levels (R100). -/
def candidateBand (levels : Band → Int) (margin : Nat) : Option Band :=
  let b := highestBand levels
  if meanLevel levels + margin ≤ levels b ∧ -120 ≤ levels b then some b else none

/-- The persistence count and run band after a window (R101). -/
def Detector.afterWindow (d : Detector) (candidate : Option Band) : Detector :=
  match candidate with
  | none => d.endRun
  | some b =>
    match d.runBand with
    | some r =>
      if 0 < d.count ∧ b.val ≤ r.val + 1 ∧ r.val ≤ b.val + 1 then { d with count := d.count + 1 }
      else { d with count := 1, runBand := some b }
    | none => { d with count := 1, runBand := some b }

/-- The end of one detector's window: an analysed one is measured, the count follows, and a count that reaches the
persistence hands its candidate over at once (R100, R101). -/
def State.endWindowOf (s : State) (src : Source) : State :=
  let d := vget s.detectors src
  let r := vget s.sources src
  let next := { d with analysing := false, window := [] }
  if d.analysing then
    let candidate := candidateBand (vget (bandLevels d.window)) r.ringMargin
    let after := next.afterWindow candidate
    let t := s.setDetector src after
    match candidate with
    | some b => if r.persistence ≤ after.count then t.handOver src b else t
    | none => t
  else s.setDetector src next

/-- The end of the shared window of 1024 frames, source by source (R99 to R101; log 33). -/
def State.endWindow (s : State) : State :=
  if 1024 ≤ s.windowCount then { allSources.foldl State.endWindowOf s with windowCount := 0 } else s

/-- WINDOW_END (R100, R101). -/
def execWindowEnd (s : State) : Answer := .next s.endWindow

/-- RING_CANDIDATE: of a detector that runs (R99, R101; log 3). -/
def execRingCandidate (source : Source) (band : Band) (s : State) : Answer :=
  .next (if s.detectorRuns source then s.handOver source band else s)

/-! ### Aging (R107) -/

/-- One aging step of a notch: 6 hdB less, or retired where that would leave less than 6. -/
def State.ageStep (s : State) (src : Source) (n : Notch) : State :=
  if n.depth < 12 then s.dropNotch src n.band
  else s.rewriteNotch src n { n with depth := n.depth - 6, quietTime := 0 }

/-- Whether a notch has its part in the advance of the second: a DYNAMIC one that no AGING_STEP has taken already (log 3). -/
def State.isAging (s : State) (src : Source) (n : Notch) : Bool :=
  decide (n.kind = .dynamic) && !s.stepped.contains (src, n.band)

/-- Whether the advance brings a notch to the decay time, or finds it there (R16). -/
def Notch.stepsNext (n : Notch) (decay : Nat) : Bool := decide (decay ≤ n.quietTime + 1)

/-- One notch at a one-second advance: its quiet time rises, or it takes its aging step. -/
def State.ageNotch (s : State) (src : Source) (n : Notch) : State :=
  if s.isAging src n then
    if n.stepsNext s.timing.notchDecay then s.ageStep src n
    else s.rewriteNotch src n { n with quietTime := n.quietTime + 1 }
  else s

/-- The advance of one table, its notches in ascending band order. -/
def State.ageTable (s : State) (src : Source) : State :=
  (vget s.notches src).foldl (fun t n => t.ageNotch src n) s

/-- Whether a second of 48 000 frames has ended and its advance is to be taken; never in STANDBY. -/
def State.secondEnded (s : State) : Bool := decide (s.service.state ≠ .standby ∧ 48000 ≤ s.secondCount)

/-- The advance of all tables at the end of a second, and the next second's start. -/
def State.advanceAging (s : State) : State :=
  if s.secondEnded then { allSources.foldl State.ageTable s with secondCount := 0, stepped := [] } else s

/-- AGING_ADVANCE (R107). -/
def execAgingAdvance (s : State) : Answer := .next s.advanceAging

/-- AGING_STEP: the aging step of one notch at the end of a second, which is its part of that second's advance
(R107, R16; log 3). -/
def execAgingStep (source : Source) (band : Band) (s : State) : Answer :=
  .next
    (match notchAt band (vget s.notches source) with
      | some n =>
        if s.secondEnded && s.isAging source n && n.stepsNext s.timing.notchDecay then
          { s.ageStep source n with stepped := (source, n.band) :: s.stepped }
        else s
      | none => s)

/-! ### Section movements -/

/-- The completion of one section's movement (R114). -/
def State.completeSection (s : State) (src : Source) (i : SectionSlot) : State :=
  let secs := vget s.sections src
  match vget secs i with
  | some sec => if sec.cut.due then s.setSections src (vset secs i sec.arrived) else s
  | none => s

/-- SECTION_MOVEMENT_COMPLETE (R114). -/
def execSectionMovementComplete (source : Source) (slot : SectionSlot) (s : State) : Answer :=
  .next (s.completeSection source slot)

/-! ### Notch requests (R109 to R113) -/

/-- LIST_NOTCHES (R113). -/
def execListNotches (source : Byte) (s : State) : Answer :=
  onRequest (.listNotches source) s fun t =>
    match asId 16 source with
    | some src =>
      let table := vget t.notches src
      readOut t ([byteOf table.length, yesNoByte (t.saturated src)] ++ table.flatMap notchBytes)
    | none => refuse t .outOfRange

/-- ADD_NOTCH (R109). -/
def execAddNotch (source band depth : Byte) (s : State) : Answer :=
  onRequest (.addNotch source band depth) s fun t =>
    match asId 16 source, asId 208 band with
    | some src, some b =>
      if (vget t.notches src).any (Notch.near b) then refuse t .tooClose
      else if t.saturated src then refuse t .tableFull
      else accept (t.placeNotch src ⟨b, asDepth depth, .fixed, 0, 0⟩)
    | _, _ => refuse t .outOfRange

/-- EDIT_NOTCH (R110). -/
def execEditNotch (source band depth kind : Byte) (s : State) : Answer :=
  onRequest (.editNotch source band depth kind) s fun t =>
    match asId 16 source, asId 208 band, asNotchKind kind with
    | some src, some b, some k =>
      match notchAt b (vget t.notches src) with
      | some n =>
        accept (t.rewriteNotch src n
          { n with depth := asDepth depth, kind := k, quietTime := if n.kind = k then n.quietTime else 0 })
      | none => refuse t .absent
    | _, _, _ => refuse t .outOfRange

/-- RETIRE_NOTCH (R111). -/
def execRetireNotch (source band : Byte) (s : State) : Answer :=
  onRequest (.retireNotch source band) s fun t =>
    match asId 16 source, asId 208 band with
    | some src, some b =>
      match notchAt b (vget t.notches src) with
      | some _ => accept (t.dropNotch src b)
      | none => refuse t .absent
    | _, _ => refuse t .outOfRange

/-- The DYNAMIC records of a source's table removed in one event (R112). -/
def State.clearDynamic (s : State) (src : Source) : State :=
  let table := vget s.notches src
  let gone := table.filter (·.kind == .dynamic)
  s.setTable src (table.filter (·.kind == .fixed))
    (gone.foldl (fun secs n => retireSection secs n.band) (vget s.sections src))

/-- CLEAR_DYNAMIC (R112). -/
def execClearDynamic (source : Byte) (s : State) : Answer :=
  onRequest (.clearDynamic source) s fun t =>
    match asId 16 source with
    | some src => accept (t.clearDynamic src)
    | none => refuse t .outOfRange

end Sys2Proof.Machine
end

