-- ==== Sys2Proof/Machine/Service.lean ====
section
/-! DEFINITION. Service Control: standby entry, waking, and the warm restart with its quiet phase, clearing and rebuild
(R161 to R167, R44, R45, R98, R116, R135). -/

namespace Sys2Proof.Machine

/-! ### Standby and waking -/

/-- The part with Service Control's state and ramp replaced. -/
def State.setService (s : State) (state : ServiceState) (ramp : Ramp) : State :=
  { s with service := { s.service with state := state, ramp := ramp } }

/-- STANDBY (R162). -/
def State.beginStandby (s : State) : State :=
  if s.service.state = .active then
    s.setService .enteringStandby (Ramp.start s.service.ramp.value (-stepOver s.timing.fadeTime))
  else s

/-- WAKE (R165): none in ACTIVE; an entry is cancelled; from STANDBY each gate takes up its drive from CLOSED. -/
def State.wake (s : State) : State :=
  let rising := Ramp.start s.service.ramp.value (stepOver s.timing.fadeTime)
  match s.service.state with
  | .active => s
  | .enteringStandby => s.setService .active rising
  | .standby => s.closeEvent (allSources.foldl State.takeUpDrive (s.setService .active rising))

/-- STANDBY (R162). -/
def execStandby (s : State) : Answer := onRequest .standby s fun t => accept t.beginStandby

/-- WAKE (R165). -/
def execWake (s : State) : Answer := onRequest .wake s fun t => accept t.wake

/-- A feed at the completion of standby entry, before FADING_OUT feeds are released (R163, steps 2 and 3). -/
def Feed.atStandby (f : Feed) : Feed :=
  { f with
    active := match f.glide with
      | some g => some (g.pending.getD g.target)
      | none => f.active
    glide := none
    state := match f.state with
      | .fadingIn _ => .steady
      | st => st }

/-- The feeds at the completion of standby entry (R163, steps 2 to 4). -/
def State.feedsAtStandby (s : State) : Vector (Vector (Option Feed) 24) 16 :=
  vgen fun src => vgen fun z =>
    match s.feed (src, z) with
    | some f => if f.state.isFadingOut then none else some f.atStandby
    | none => none

/-- The completion of standby entry, one event (R163). -/
def State.completeEntry (s : State) : State :=
  let t := { s with
    service := { s.service with state := .standby, ramp := Ramp.rest 0 }
    feeds := s.feedsAtStandby
    channels := vgen fun src =>
      { vget s.channels src with gate := .closed, history := (vget s.channels src).history.clear }
    detectors := vgen fun _ => Detector.idle }
  s.closeEvent (allSources.foldl State.removeIfEmpty t)

/-- The end of an entry whose ramp has reached 0 and that no warm restart has overtaken (R163, R167). -/
def State.endEntry (s : State) : State :=
  if s.service.state = .enteringStandby ∧ s.service.restart = none ∧ s.service.ramp.due then s.completeEntry else s

/-- STANDBY_ENTRY_COMPLETE (R163). -/
def execStandbyEntryComplete (s : State) : Answer := .next s.endEntry

/-- The completion of a service ramp that has risen to 1, or fallen to 0 in the quiet phase of a warm restart (R161,
R167); the fall of a standby entry ends with STANDBY_ENTRY_COMPLETE (R163; DEDUCED, log 29). -/
def State.completeServiceRamp (s : State) : State :=
  if s.service.ramp.due ∧ (0 < s.service.ramp.step ∨ s.service.restart ≠ none) then
    { s with service := { s.service with ramp := s.service.ramp.finish } }
  else s

/-- SERVICE_RAMP_COMPLETE (R161). -/
def execServiceRampComplete (s : State) : Answer := .next s.completeServiceRamp

/-! ### Warm restart -/

/-- The service ramp of the quiet phase: 1/240 a frame down to 0, ended at once from 0 (R167). -/
def quietRamp (gain : Rat) : Ramp := if gain ≤ 0 then Ramp.rest 0 else Ramp.start gain (-(1 / 240))

/-- The trigger of a warm restart; a transaction in progress shifts out 0x00 bytes from here on and its request is
ended (R151, R167). -/
def State.trigger (s : State) (cause : RestartCause) : State :=
  { s with
    service := { s.service with restart := some cause, ramp := quietRamp s.service.ramp.value }
    link := { s.link with
      receiveBuffer := []
      transaction := s.link.transaction.map fun _ => ⟨[], true⟩ } }

/-- RESTART: it forms no response (R167). -/
def execRestart (s : State) : Answer :=
  .next (if s.takesRequest then s.endTransaction.trigger .restartRequest else s.endTransaction)

/-- RESET_PIN: the fall of the reset pin triggers a warm restart, or lengthens one in progress. A pin that is low can only
be released, which ends no phase by itself but lets the clearing come (R167; log 21). -/
def execResetPin (s : State) : Answer :=
  .next
    (let t := { s with service := { s.service with resetPinLow := !s.service.resetPinLow } }
     if t.service.resetPinLow && s.service.restart.isNone then t.trigger .resetPin else t)

/-- The level at the pin of a Cue Line, from the byte that carries all eight. -/
def pinOf (pins : Byte) (l : Line) : Bool := pins.getLsbD l.val

/-- A Cue Line whose running state is taken afresh from its pin at the end of a reset (R135). -/
def CueLine.afresh (c : CueLine) (pin : Bool) : CueLine :=
  { c with raw := pin, held := 0, debounced := pin, delta := false, refused := false }

/-- A channel's running state after a warm restart, its record kept (R98). -/
def Channel.afresh (c : Channel) (r : SourceRecord) : Channel :=
  ⟨Slide.rest (factorOf r.trim), .closed, -240, 0, c.history.clear⟩

/-- A Zone Mixer after a warm restart: the mute gain at its end, the meters cleared (R145, R147). -/
def Mixer.afresh (m : Mixer) (mute : Bool) : Mixer :=
  { m with mute := Ramp.rest (if mute then 0 else 1), peak := -240, clip := false }

/-- A kept placement: RETIRING ones are removed (R44). -/
def keptPlacement (p : Option Placement) : Option Placement := p.filter fun q => q.state == .active

/-- The service state and ramp after the clearing: an entry in progress is taken as STANDBY, and ACTIVE rises from 0
over 240 frames (R167). -/
def serviceAfterClearing (state : ServiceState) : ServiceControl :=
  match state with
  | .active => ⟨.active, Ramp.start 0 (1 / 240), none, false⟩
  | .enteringStandby => ⟨.standby, Ramp.rest 0, none, false⟩
  | .standby => ⟨.standby, Ramp.rest 0, none, false⟩

/-- The link after a warm restart: RESTARTED alone is set, the empty OK response is held, and a transaction in progress
has lost its request and shifts out 0x00 bytes to its end (R151, R160; log 37). -/
def Link.afterRestart (l : Link) (cause : RestartCause) : Link :=
  { l with
    receiveBuffer := []
    response := Response.reset
    flags := EventFlag.restarted.bit
    restartCause := cause
    transaction := l.transaction.map fun _ => ⟨[], true⟩ }

/-- The clearing of a warm restart, without the rebuild (R167, phase 2). -/
def State.cleared (s : State) (cause : RestartCause) (pins : Byte) : State :=
  { s with
    placements := vgen fun src => keptPlacement (s.placement src)
    feeds := vgen fun _ => vgen fun _ => none
    queue := []
    channels := vgen fun src => (vget s.channels src).afresh (vget s.sources src)
    blockCount := 0
    detectors := vgen fun _ => Detector.idle
    sections := vgen fun src => sectionsAtRest (vget s.notches src)
    windowCount := 0
    secondCount := 0
    stepped := []
    mixers := vgen fun z => (vget s.mixers z).afresh (vget s.zones z).mute
    cues := vgen fun l => (vget s.cues l).afresh (pinOf pins l)
    link := s.link.afterRestart cause
    service := serviceAfterClearing s.service.state }

/-- The clearing with the rebuild of the feeds and the gates' drives, one event; it raises no SETTLED (R44, R79, R167). -/
def State.clear (s : State) (cause : RestartCause) (pins : Byte) : State :=
  let rebuilt := (s.cleared cause pins).reconcileMany fun _ => true
  (allSources.foldl State.takeUpDrive rebuilt).refreshGains

/-- Whether the quiet phase of a warm restart can give way to the clearing: the ramp has fallen to 0 and the reset pin is
high (R167). -/
def ServiceControl.quietOver (c : ServiceControl) : Bool := decide (c.ramp.shown = 0) && !c.resetPinLow

/-- CLEARING: of a warm restart whose quiet phase is over (R167). -/
def execClearing (cuePins : Byte) (s : State) : Answer :=
  .next
    (match s.service.restart with
      | some cause => if s.service.quietOver then s.clear cause cuePins else s
      | none => s)

/-- POWER_ON_RESET: every record at its power-on value, the Cue Lines' levels from their pins (R135, R166; log 16,
log 32). A transaction in progress is forgotten: a rise of chip select after it takes its request (log 38). -/
def execPowerOnReset (cuePins : Byte) (s : State) : Answer :=
  .next { State.reset with
    cues := vgen fun l => CueLine.reset.afresh (pinOf cuePins l)
    freeSerial := s.freeSerial
    pending := s.pending }

end Sys2Proof.Machine
end

