-- ==== Sys2Proof/Machine/Cues.lean ====
section
/-! DEFINITION. The Cue Inputs: sampling, debouncing, edges and actions (R128 to R135), and the timing settings, whose
debounce time can make a pending change count at once (R15 to R17). -/

namespace Sys2Proof.Machine

/-- One sample of a Cue Line's pin (R128). -/
def CueLine.sample (c : CueLine) (pin : Bool) : CueLine :=
  if pin = c.raw then { c with held := min 100 (c.held + 1) } else { c with raw := pin, held := 0 }

/-- Whether a raw level counts: it differs from the debounced level and has held for the debounce time (R128). -/
def CueLine.counts (c : CueLine) (debounce : Nat) : Bool := c.raw != c.debounced && decide (debounce ≤ c.held)

/-- Whether an edge setting matches a change to a level (R129). -/
def Edge.hasMatch (e : Edge) (level : Bool) : Bool :=
  match e with
  | .none => false
  | .rising => level
  | .falling => !level
  | .both => true

/-- A line's stored action carried out as the request of the same name (R130, R134). -/
def CueAction.perform (a : CueAction) (s : State) : ResultCode × State :=
  match a with
  | .none => (.ok, s)
  | .place src st sv level => placeOp src st sv level s
  | .move src st => moveOp src st s
  | .retire src => retireOp src s
  | .gateMode src m => setGateModeOp src m s
  | .wake => (.ok, s.wake)

/-- The debounced level of a line follows its raw level. -/
def State.settleLine (s : State) (l : Line) : State :=
  s.setCue l { vget s.cues l with debounced := (vget s.cues l).raw }

/-- The result of a line's action kept: the last result, the delta flag with CUE, and where the action was refused the
refusal mark with CUE_REFUSED (R129, R131). -/
def State.recordAction (s : State) (l : Line) (result : ResultCode) : State :=
  let c := vget s.cues l
  let t := (s.setCue l { c with delta := true, lastResult := result, refused := c.refused || result != .ok }).raise .cue
  if result = .ok then t else t.raise .cueRefused

/-- A debounced change of a line, as one event (R129); none is counted in the quiet phase of a warm restart (R167;
log 25). -/
def State.debouncedChange (s : State) (l : Line) : State :=
  let c := vget s.cues l
  if s.service.restart.isSome || !c.counts s.timing.debounce then s
  else
    let t := s.settleLine l
    if c.edge.hasMatch c.raw then
      let r := c.action.perform t
      r.2.recordAction l r.1
    else t

/-- DEBOUNCED_CHANGE (R129). -/
def execDebouncedChange (line : Line) (s : State) : Answer := .next (s.debouncedChange line)

/-- CUE_PIN_SAMPLE: a debounced change that the sample before brought about and that has not been taken is taken first,
the lines ascending (log 2); then each line samples its pin (R128). -/
def execCuePinSample (pins : Byte) (s : State) : Answer :=
  .next
    (let t := allLines.foldl State.debouncedChange s
     { t with cues := vgen fun l => (vget t.cues l).sample (pinOf pins l) })

/-- SET_CUE (R132). -/
def execSetCue (payload : CuePayload) (s : State) : Answer :=
  onRequest (.setCue payload) s fun t =>
    match asId 8 payload.line, asEdge payload.edge, asCueAction payload with
    | some l, some e, some a => accept (t.setCue l { vget t.cues l with edge := e, action := a })
    | _, _, _ => refuse t .outOfRange

/-- The payload of GET_CUE_STATUS (R133). -/
def State.cueStatusBytes (s : State) : List Byte := allLines.flatMap fun l => cueBytes (vget s.cues l)

/-- The delta flags and refusal marks cleared with CUE and CUE_REFUSED (R133). -/
def State.clearCueFlags (s : State) : State :=
  ({ s with cues := vgen fun l => { vget s.cues l with delta := false, refused := false } }.lower .cue).lower .cueRefused

/-- GET_CUE_STATUS (R133). -/
def execGetCueStatus (s : State) : Answer := onRequest .getCueStatus s fun t => (.ok, t.cueStatusBytes, t.clearCueFlags)

/-! ### The timing settings -/

/-- A notch whose quiet time a shortened decay time has overtaken (R16). -/
def Notch.capQuiet (decay : Nat) (n : Notch) : Notch :=
  if n.kind = .dynamic ∧ decay ≤ n.quietTime then { n with quietTime := decay } else n

/-- The timing settings written, with their effects on the Notch Tables and Cue Lines (R15, R16); the lines that count
at once are taken in ascending order (log 19). -/
def setTimingOp (new : Timing) (s : State) : State :=
  if s.timing = new then s
  else
    let t := { s with
      timing := new
      notches :=
        if new.notchDecay < s.timing.notchDecay then vgen fun src => (vget s.notches src).map (Notch.capQuiet new.notchDecay)
        else s.notches }
    allLines.foldl State.debouncedChange t

/-- SET_TIMING (R15). -/
def execSetTiming (payload : TimingPayload) (s : State) : Answer :=
  onRequest (.setTiming payload) s fun t =>
    match asTiming payload with
    | some new => accept (setTimingOp new t)
    | none => refuse t .outOfRange

/-- GET_TIMING (R17). -/
def execGetTiming (s : State) : Answer := onRequest .getTiming s fun t => readOut t (timingBytes t.timing)

end Sys2Proof.Machine
end

