-- ==== Sys2Proof/Machine/Clock.lean ====
section
/-! DEFINITION. The Clock Unit: selection, presence, switching, lock and loss (R137 to R143). -/

namespace Sys2Proof.Machine

/-- Whether the part drives the frame sync and bit clock pins: in INTERNAL they are outputs, in either external state
inputs (R137). -/
def State.drivesClockPins (s : State) : Bool := s.clock.state == .internal

/-- The part with the Clock Unit replaced. -/
def State.setClock (s : State) (c : ClockUnit) : State := { s with clock := c }

/-- A clock state taken: CLOCK is raised, the presence count starts from 0 and the run of missed frames with it
(R138, R143). -/
def State.enterClockState (s : State) (st : ClockState) : State :=
  (s.setClock { s.clock with state := st, presence := 0, missed := 0, frameStarted := false }).raise .clock

/-- A selection carried out with no switch in flight, by the table of R140. -/
def ClockUnit.select (c : ClockUnit) (sel : ClockSelection) : ClockUnit :=
  match c.state, sel with
  | .internal, .internal => c
  | .internal, .external => { c with selection := .external, flight := some (.down .awaitingExternal) }
  | _, .internal => { c with selection := .internal, flight := some (.down .internal) }
  | _, .external => c

/-- The completion of a switch: none is in flight, and a pending selection is cleared and carried out (R140). -/
def ClockUnit.complete (c : ClockUnit) : ClockUnit :=
  let idle := { c with flight := none, pendingSelection := none }
  match c.pendingSelection with
  | some sel => idle.select sel
  | none => idle

/-- A SET_CLOCK taken (R140). -/
def ClockUnit.request (c : ClockUnit) (sel : ClockSelection) : ClockUnit :=
  if c.flight.isSome then { c with pendingSelection := some sel } else c.select sel

/-- SET_CLOCK (R140). -/
def execSetClock (selection : Byte) (s : State) : Answer :=
  onRequest (.setClock selection) s fun t =>
    match asSelection selection with
    | some sel => accept (t.setClock (t.clock.request sel))
    | none => refuse t .outOfRange

/-- GET_CLOCK (R143). -/
def execGetClock (s : State) : Answer := onRequest .getClock s fun t => readOut t (clockBytes t.clock)

/-! ### The change and the end of a switch -/

/-- The change of a switch whose down phase has ended: into AWAITING_EXTERNAL it completes at once with the gain at 0;
into INTERNAL or LOCKED_EXTERNAL the up phase begins (R139). -/
def State.changeClock (s : State) (target : ClockState) (gain : Rat) : State :=
  let t := s.enterClockState target
  if target = .awaitingExternal then t.setClock { t.clock with gain := gain }.complete
  else t.setClock { t.clock with gain := gain, flight := some .up }

/-- The change of a switch whose down phase has brought the gain to 0; that of a lock is made by a received arrival
(R139, R141). -/
def State.switchChange (s : State) : State :=
  match s.clock.flight with
  | some (.down target) => if target = .lockedExternal ∨ s.clock.gain ≠ 0 then s else s.changeClock target 0
  | _ => s

/-- SWITCH_CHANGE (R139). -/
def execSwitchChange (s : State) : Answer := .next s.switchChange

/-- The completion of a switch whose up phase has brought the gain to 1 (R139, R140). -/
def State.switchComplete (s : State) : State :=
  if s.clock.flight = some .up ∧ s.clock.gain = 1 then s.setClock s.clock.complete else s

/-- SWITCH_COMPLETE (R139). -/
def execSwitchComplete (s : State) : Answer := .next s.switchComplete

/-! ### Lock and loss -/

/-- The arrivals that a good frame sync needs before a lock: 0.5 s (R138). -/
def presenceFull : Nat := 24000

/-- The presence count full: a switch to LOCKED_EXTERNAL starts, its down phase ended at once (R141). -/
def State.startLock (s : State) : State :=
  if s.clock.state = .awaitingExternal ∧ s.clock.selection = .external ∧ s.clock.flight = none then
    s.setClock { s.clock with presence := presenceFull, flight := some (.down .lockedExternal) }
  else s

/-- PRESENCE_COUNT_FULL (R141). -/
def execPresenceCountFull (s : State) : Answer := .next s.startLock

/-- The lock change at a good arrival: that arrival starts a frame, and the up phase runs (R141). -/
def State.lockChange (s : State) : State :=
  match s.clock.flight with
  | some (.down .lockedExternal) =>
    let t := s.changeClock .lockedExternal s.clock.gain
    t.setClock { t.clock with frameStarted := true }
  | _ => s

/-- LOCK_CHANGE (R141). -/
def execLockChange (s : State) : Answer := .next s.lockChange

/-- The presence count put back to 0; a lock that waits for its change is abandoned, its switch completing without a
change (R138, R141). -/
def ClockUnit.disturb (c : ClockUnit) : ClockUnit :=
  let zero := { c with presence := 0 }
  if c.flight = some (.down .lockedExternal) then zero.complete else zero

/-- A loss in LOCKED_EXTERNAL: in the down phase of a switch to INTERNAL the change is made at once, else the part
goes into holdover; the gain is set to 0 in both (R142; DEDUCED for the former, log 13). -/
def State.loseClock (s : State) : State :=
  if s.clock.state = .lockedExternal then
    if s.clock.flight = some (.down .internal) then
      s.changeClock .internal 0
    else
      let t := s.enterClockState .awaitingExternal
      t.setClock { t.clock with gain := 0 }.complete
  else s

/-- CLOCK_LOSS (R142). -/
def execClockLoss (s : State) : Answer := .next s.loseClock

/-- Whether an interval, in frame periods, is good: within 1 % of one, the ends included (R138; DEDUCED, log 14). -/
def goodInterval (interval : Rat) : Bool := decide (99 / 100 ≤ interval) && decide (interval ≤ 101 / 100)

/-- A received frame-sync arrival (R138, R141). -/
def State.arrival (s : State) (interval : Rat) : State :=
  match s.clock.state with
  | .internal => s
  | .lockedExternal =>
    if interval < 99 / 100 then s else s.setClock { s.clock with missed := 0, frameStarted := true }
  | .awaitingExternal =>
    if s.clock.selection = .internal then s
    else if !goodInterval interval then s.setClock s.clock.disturb
    else if s.clock.flight = some (.down .lockedExternal) then s.lockChange
    else
      let t := s.setClock { s.clock with presence := min presenceFull (s.clock.presence + 1) }
      if t.clock.presence = presenceFull then t.startLock else t

/-- FRAME_SYNC_ARRIVAL (R138). -/
def execFrameSyncArrival (interval : Rat) (s : State) : Answer := .next (s.arrival interval)

/-- A missed frame; the fourth in a row in LOCKED_EXTERNAL is a loss (R138, R142). -/
def State.missFrame (s : State) : State :=
  match s.clock.state with
  | .internal => s
  | .awaitingExternal => if s.clock.selection = .internal then s else s.setClock s.clock.disturb
  | .lockedExternal =>
    let t := s.setClock { s.clock with missed := s.clock.missed + 1 }
    if 4 ≤ t.clock.missed then t.loseClock else t

/-- MISSED_FRAME (R138). -/
def execMissedFrame (s : State) : Answer := .next s.missFrame

end Sys2Proof.Machine
end

