-- ==== Sys2Proof/Machine/Audio.lean ====
section
/-! DEFINITION. One audio frame: the events that earlier frames have made due, the advance of every ramp and movement,
the Input Channels, the Zone Mixers and their output stage, the ports and the counts (R63, R64, R70, R74, R84 to R86,
R96, R99, R107, R114, R136, R139, R144 to R147, R161); and the zone meters' read-out. -/

namespace Sys2Proof.Machine

/-! ### Events due (log 2, log 20) -/

/-- The end of a zone's mute ramp (R145). -/
def State.completeMute (s : State) (z : Zone) : State :=
  let m := vget s.mixers z
  if m.mute.due then { s with mixers := vset s.mixers z { m with mute := m.mute.finish } } else s

/-- MUTE_RAMP_COMPLETE (R145). -/
def execMuteRampComplete (zone : Zone) (s : State) : Answer := .next (s.completeMute zone)

/-- The ends of a channel's gate ramp, trim ramp and section movements (R84, R87, R89, R114). -/
def State.takeDueChannel (s : State) (src : Source) : State :=
  allSlots.foldl (fun t i => t.completeSection src i)
    (((s.completeOpening src).completeClosing src).completeTrim src)

/-- The ends of a feed's glide, gain movement and fade (R25, R67, R71, R144). -/
def State.takeDueFeed (s : State) (k : FeedKey) : State :=
  (((s.completeGlide k).completeGain k).completeFadeIn k).completeFadeOut k

/-- Every event that the frames before have made due and that no command has taken, in one fixed order: the clock
switch, the service ramp, the channels, the feeds, the mute ramps, the block, the window and the second (log 20). -/
def State.takeDue (s : State) : State :=
  let s := s.switchChange.switchComplete.endEntry.completeServiceRamp
  let s := allSources.foldl State.takeDueChannel s
  let s := allFeeds.foldl State.takeDueFeed s
  let s := allZones.foldl State.completeMute s
  s.evaluateBlock.endWindow.advanceAging

/-! ### The advance of one frame -/

/-- One frame of a glide (R64). -/
def Glide.advance (g : Glide) : Glide := { g with position := min g.length (g.position + 1) }

/-- One frame of a feed's fade, glide and gain movement (R64, R70, R144). -/
def Feed.advance (f : Feed) : Feed :=
  { f with
    state := match f.state with
      | .fadingIn r => .fadingIn r.advance
      | .fadingOut r => .fadingOut r.advance
      | st => st
    glide := f.glide.map Glide.advance
    smoothing := f.smoothing.map fun sm => { sm with factor := sm.factor.advance } }

/-- One frame of a gate's ramp (R86). -/
def Gate.advance : Gate → Gate
  | .opening r _ => .opening r.advance false
  | .closing r => .closing r.advance
  | g => g

/-- The gate gain of the present frame (R86). -/
def Gate.gain : Gate → Rat
  | .closed => 0
  | .opening r _ => r.shown
  | .opened => 1
  | .hold _ => 1
  | .closing r => r.shown

/-- One frame of the switch ramp (R139). -/
def ClockUnit.advance (c : ClockUnit) : ClockUnit :=
  match c.flight with
  | some (.down _) => { c with gain := max 0 (c.gain - 1 / 240) }
  | some .up => { c with gain := min 1 (c.gain + 1 / 240) }
  | none => c

/-- One frame of every ramp and movement of the part. -/
def State.advanceFrame (s : State) : State :=
  { s with
    feeds := vgen fun src => vgen fun z => (s.feed (src, z)).map Feed.advance
    channels := vgen fun src =>
      let c := vget s.channels src
      { c with trimFactor := c.trimFactor.advance, gate := c.gate.advance }
    sections := vgen fun src => vgen fun i =>
      (vget (vget s.sections src) i).map fun sec => { sec with cut := sec.cut.advance }
    mixers := vgen fun z => { vget s.mixers z with mute := (vget s.mixers z).mute.advance }
    clock := s.clock.advance
    service := { s.service with ramp := s.service.ramp.advance } }

/-! ### The Input Channels -/

/-- The sample the input port delivers for a source: none is received in AWAITING_EXTERNAL (R136). -/
def State.portSample (s : State) (input : Vector Sample 16) (src : Source) : Int :=
  if s.clock.state = .awaitingExternal then 0 else (vget input src).toInt

/-- A section put into a list of sections in its place by ascending band, after those of its own band. -/
def placeInChain (i : SectionSlot) (sec : NotchSection) :
    List (SectionSlot × NotchSection) → List (SectionSlot × NotchSection)
  | [] => [(i, sec)]
  | (j, other) :: rest =>
    if sec.band < other.band then (i, sec) :: (j, other) :: rest else (j, other) :: placeInChain i sec rest

/-- The sections of a channel whose present cut is above 0, the outgoing ones among them, in ascending band order
(R114). -/
def sectionChain (secs : Vector (Option NotchSection) 16) : List (SectionSlot × NotchSection) :=
  allSlots.foldl (fun chain i =>
    match vget secs i with
    | some sec => if 0 < sec.cut.value then placeInChain i sec chain else chain
    | none => chain) []

/-- A sample through one section at its present cut, with the section after it (R114). -/
def NotchSection.pass (sec : NotchSection) (x : Rat) : Rat × NotchSection :=
  let y := filterOutput (sectionFilter sec.band sec.cut.value) sec.memory x
  (y, { sec with memory := sec.memory.push x y })

/-- A sample through a chain of sections, with the sections of the channel after it. -/
def runChain (x : Rat) (secs : Vector (Option NotchSection) 16) :
    List (SectionSlot × NotchSection) → Rat × Vector (Option NotchSection) 16
  | [] => (x, secs)
  | (i, sec) :: rest => runChain (sec.pass x).1 (vset secs i (some (sec.pass x).2)) rest

/-- The notch sections of a channel (R84, R114): the sample passes unchanged where no cut is in force; the output of the
chain is saturated at full scale. -/
def runSections (serial : Nat) (src : Source) (x : Int) (secs : Vector (Option NotchSection) 16) :
    Int × Vector (Option NotchSection) 16 :=
  match sectionChain secs with
  | [] => (x, secs)
  | chain =>
    let r := runChain x secs chain
    (roundSample serial (16 + src.val) (saturate r.1), r.2)

/-- The trimmed sample (R84). -/
def State.trimmed (s : State) (input : Vector Sample 16) (src : Source) : Int :=
  roundSample s.freeSerial src.val
    (saturate ((s.portSample input src : Rat) * (vget s.channels src).trimFactor.value))

/-- The sample after the notch sections: what the level meter and the Ring Detector see (R84, R85). -/
def State.filtered (s : State) (input : Vector Sample 16) (src : Source) : Int :=
  (runSections s.freeSerial src (s.trimmed input src) (vget s.sections src)).1

/-- The gated sample, which the history keeps (R96). -/
def State.gated (s : State) (input : Vector Sample 16) (src : Source) : Int :=
  roundSample s.freeSerial (32 + src.val) ((s.filtered input src : Rat) * (s.gate src).gain)

/-- The frame's work of a channel: the block's energy and the history (R85, R96). -/
def State.runChannel (s : State) (input : Vector Sample 16) (src : Source) : Channel :=
  let c := vget s.channels src
  { c with
    blockEnergy := c.blockEnergy + (s.filtered input src).natAbs ^ 2
    history := c.history.push (s.gated input src) }

/-- The frame's work of a detector: a window is analysed when its detector runs from the window's first frame (R99). -/
def State.runDetector (s : State) (input : Vector Sample 16) (src : Source) : Detector :=
  let d := vget s.detectors src
  let analysing := if s.windowCount = 0 then s.detectorRuns src else d.analysing
  { d with
    analysing := analysing
    window := if analysing then s.filtered input src :: (if s.windowCount = 0 then [] else d.window) else [] }

/-- The frame's work of every channel and detector, and the counts (R85, R99, R107). -/
def State.runChannels (s : State) (input : Vector Sample 16) : State :=
  { s with
    channels := vgen fun src => s.runChannel input src
    detectors := vgen fun src => s.runDetector input src
    sections := vgen fun src => (runSections s.freeSerial src (s.trimmed input src) (vget s.sections src)).2
    blockCount := s.blockCount + 1
    windowCount := s.windowCount + 1
    secondCount := if s.service.state = .standby then s.secondCount else s.secondCount + 1 }

/-! ### The Zone Mixers -/

/-- The fade weight of a fade level under a shape (R74). Under CONSTANT_DB it is the factor of a gain of −192 × (1 − L)
hdB, held as the factors of R58 are (DEDUCED, log 10). -/
def fadeWeight (shape : FadeShape) (level : Rat) : Rat :=
  match shape with
  | .linear => level
  | .constantDb =>
    let exponent := -192 * (1 - level) / 40
    if level ≤ 0 then 0 else heldFactor exponent.num exponent.den

/-- The fade level of the present frame (R70). -/
def FeedState.shownLevel : FeedState → Rat
  | .waiting => 0
  | .fadingIn r => r.shown
  | .steady => 1
  | .fadingOut r => r.shown

/-- The weighted tap sum of a feed (R63). -/
def Feed.tapSum (f : Feed) (h : History) : Rat :=
  match f.active, f.glide with
  | none, _ => 0
  | some a, none => h.tap a
  | some a, some g =>
    let w : Rat := (g.position : Rat) / (g.length : Rat)
    (1 - w) * h.tap a + w * h.tap g.target

/-- The applied factor of a feed (R144). -/
def Feed.appliedFactor (f : Feed) : Rat :=
  match f.smoothing with
  | some sm => sm.factor.value
  | none => 0

/-- The contribution of a feed to its zone (R63). -/
def Feed.contribution (f : Feed) (h : History) (shape : FadeShape) : Rat :=
  match f.state with
  | .waiting => 0
  | st => f.tapSum h * f.appliedFactor * fadeWeight shape st.shownLevel

/-- The sum of the contributions of a zone's feeds (R144). -/
def State.zoneSum (s : State) (z : Zone) : Rat :=
  (allSources.map fun src =>
    match s.feed (src, z) with
    | some f => f.contribution (vget s.channels src).history s.timing.fadeShape
    | none => 0).sum

/-- The product of the sum and the three output gains (R146, step 2). -/
def State.zoneProduct (s : State) (z : Zone) : Rat :=
  s.zoneSum z * (vget s.mixers z).mute.shown * s.service.ramp.shown * s.clock.gain

/-- The output stage of a zone: saturated, metered (R146, R147; log 28). -/
def State.runMixer (s : State) (z : Zone) : Mixer :=
  let m := vget s.mixers z
  let product := s.zoneProduct z
  let out := roundSample s.freeSerial (48 + z.val) (saturate product)
  { m with
    output := out
    peak := max m.peak (sampleLevel out)
    clip := m.clip || saturates product }

/-- The output sample of a zone by its number; a slot of no zone holds silence (R136). -/
def State.slotSample (s : State) (n : Nat) : Int :=
  if h : n < 24 then (vget s.mixers ⟨n, h⟩).output else 0

/-- The output ports of the frame: nothing is shifted out in AWAITING_EXTERNAL (R136). -/
def State.drivePorts (s : State) : State :=
  if s.clock.state = .awaitingExternal then { s with portA := none, portB := none }
  else { s with
    portA := some (vgen fun i : Fin 16 => s.slotSample i.val)
    portB := some (vgen fun i : Fin 16 => s.slotSample (16 + i.val)) }

/-- The frame's work of every Zone Mixer, and the ports (R146). -/
def State.runMixers (s : State) : State :=
  { s with mixers := vgen fun z => s.runMixer z }.drivePorts

/-- Whether a frame can run: in LOCKED_EXTERNAL only one that a received arrival has started (R138; log 15). -/
def State.framePaced (s : State) : Bool := s.clock.state != .lockedExternal || s.clock.frameStarted

/-- One frame, the events already due apart (R146; the serial of the free values moves on, log 26). -/
def State.frame (s : State) (input : Vector Sample 16) : State :=
  let t := ((s.advanceFrame).runChannels input).runMixers
  { t with freeSerial := t.freeSerial + 1, clock := { t.clock with frameStarted := false } }

/-- AUDIO_FRAME (R146): what is due is taken first (log 2). -/
def execAudioFrame (input : Vector Sample 16) (s : State) : Answer :=
  .next (if s.framePaced then s.takeDue.frame input else s)

/-! ### The zone meters -/

/-- The payload of GET_ZONE_METERS (R147; spec 12, Meters). -/
def State.zoneMeterBytes (s : State) : List Byte :=
  allZones.flatMap fun z => intBytes (vget s.mixers z).peak ++ [yesNoByte (vget s.mixers z).clip]

/-- Every zone's meters cleared (R147). -/
def State.clearMeters (s : State) : State :=
  { s with mixers := vgen fun z => { vget s.mixers z with peak := -240, clip := false } }

/-- GET_ZONE_METERS (R147). -/
def execGetZoneMeters (s : State) : Answer := onRequest .getZoneMeters s fun t => (.ok, t.zoneMeterBytes, t.clearMeters)

end Sys2Proof.Machine
end

