-- ==== Sys2Proof/Machine/Dispatch.lean ====
section
/-! DEFINITION. One arm for each command: the call of its meaning. -/

namespace Sys2Proof.Machine

def exec (i : Instr) (s : State) : Host.Outcome State Fault Refusal :=
  match i with
  | .nop => Sys2Proof.Machine.execNop s
  | .identify => Sys2Proof.Machine.execIdentify s
  | .getCause => Sys2Proof.Machine.execGetCause s
  | .ackEvents flags => Sys2Proof.Machine.execAckEvents flags s
  | .setEventMask mask => Sys2Proof.Machine.execSetEventMask mask s
  | .standby => Sys2Proof.Machine.execStandby s
  | .wake => Sys2Proof.Machine.execWake s
  | .restart => Sys2Proof.Machine.execRestart s
  | .setClock selection => Sys2Proof.Machine.execSetClock selection s
  | .getClock => Sys2Proof.Machine.execGetClock s
  | .setStation station position reach => Sys2Proof.Machine.execSetStation station position reach s
  | .getStation station => Sys2Proof.Machine.execGetStation station s
  | .clearStation station => Sys2Proof.Machine.execClearStation station s
  | .setZone payload => Sys2Proof.Machine.execSetZone payload s
  | .getZone zone => Sys2Proof.Machine.execGetZone zone s
  | .setArea area mode service => Sys2Proof.Machine.execSetArea area mode service s
  | .getArea area => Sys2Proof.Machine.execGetArea area s
  | .setTemperature temperature => Sys2Proof.Machine.execSetTemperature temperature s
  | .getAlignment => Sys2Proof.Machine.execGetAlignment s
  | .setTiming payload => Sys2Proof.Machine.execSetTiming payload s
  | .getTiming => Sys2Proof.Machine.execGetTiming s
  | .place source station service level => Sys2Proof.Machine.execPlace source station service level s
  | .move source station => Sys2Proof.Machine.execMove source station s
  | .setLevel source level => Sys2Proof.Machine.execSetLevel source level s
  | .retire source => Sys2Proof.Machine.execRetire source s
  | .getPlacement source => Sys2Proof.Machine.execGetPlacement source s
  | .findAtStation station => Sys2Proof.Machine.execFindAtStation station s
  | .getFeed source zone => Sys2Proof.Machine.execGetFeed source zone s
  | .listLimited => Sys2Proof.Machine.execListLimited s
  | .getPool => Sys2Proof.Machine.execGetPool s
  | .setSource payload => Sys2Proof.Machine.execSetSource payload s
  | .getSource source => Sys2Proof.Machine.execGetSource source s
  | .setGateMode source mode => Sys2Proof.Machine.execSetGateMode source mode s
  | .getMeters => Sys2Proof.Machine.execGetMeters s
  | .getZoneMeters => Sys2Proof.Machine.execGetZoneMeters s
  | .listNotches source => Sys2Proof.Machine.execListNotches source s
  | .addNotch source band depth => Sys2Proof.Machine.execAddNotch source band depth s
  | .editNotch source band depth kind => Sys2Proof.Machine.execEditNotch source band depth kind s
  | .retireNotch source band => Sys2Proof.Machine.execRetireNotch source band s
  | .clearDynamic source => Sys2Proof.Machine.execClearDynamic source s
  | .setCue payload => Sys2Proof.Machine.execSetCue payload s
  | .getCueStatus => Sys2Proof.Machine.execGetCueStatus s
  | .frameRejected received => Sys2Proof.Machine.execFrameRejected received s
  | .powerOnReset cuePins => Sys2Proof.Machine.execPowerOnReset cuePins s
  | .resetPin => Sys2Proof.Machine.execResetPin s
  | .clearing cuePins => Sys2Proof.Machine.execClearing cuePins s
  | .derivation => Sys2Proof.Machine.execDerivation s
  | .glideComplete source zone => Sys2Proof.Machine.execGlideComplete source zone s
  | .fadeInComplete source zone => Sys2Proof.Machine.execFadeInComplete source zone s
  | .fadeOutComplete source zone => Sys2Proof.Machine.execFadeOutComplete source zone s
  | .audioFrame input => Sys2Proof.Machine.execAudioFrame input s
  | .blockEvaluation => Sys2Proof.Machine.execBlockEvaluation s
  | .holdExpiry source => Sys2Proof.Machine.execHoldExpiry source s
  | .openingComplete source => Sys2Proof.Machine.execOpeningComplete source s
  | .closingComplete source => Sys2Proof.Machine.execClosingComplete source s
  | .trimRampComplete source => Sys2Proof.Machine.execTrimRampComplete source s
  | .windowEnd => Sys2Proof.Machine.execWindowEnd s
  | .ringCandidate source band => Sys2Proof.Machine.execRingCandidate source band s
  | .agingAdvance => Sys2Proof.Machine.execAgingAdvance s
  | .agingStep source band => Sys2Proof.Machine.execAgingStep source band s
  | .sectionMovementComplete source slot => Sys2Proof.Machine.execSectionMovementComplete source slot s
  | .gainMovementComplete source zone => Sys2Proof.Machine.execGainMovementComplete source zone s
  | .muteRampComplete zone => Sys2Proof.Machine.execMuteRampComplete zone s
  | .debouncedChange line => Sys2Proof.Machine.execDebouncedChange line s
  | .frameSyncArrival interval => Sys2Proof.Machine.execFrameSyncArrival interval s
  | .missedFrame => Sys2Proof.Machine.execMissedFrame s
  | .presenceCountFull => Sys2Proof.Machine.execPresenceCountFull s
  | .lockChange => Sys2Proof.Machine.execLockChange s
  | .clockLoss => Sys2Proof.Machine.execClockLoss s
  | .switchChange => Sys2Proof.Machine.execSwitchChange s
  | .switchComplete => Sys2Proof.Machine.execSwitchComplete s
  | .standbyEntryComplete => Sys2Proof.Machine.execStandbyEntryComplete s
  | .serviceRampComplete => Sys2Proof.Machine.execServiceRampComplete s
  | .transactionStart => Sys2Proof.Machine.execTransactionStart s
  | .cuePinSample pins => Sys2Proof.Machine.execCuePinSample pins s

end Sys2Proof.Machine
end

