-- ==== Sys2Proof/Safety.lean ====
section
/-! DEFINITION. The words the statements are made of: what a request or event leaves of the feeds, the queue, the gates
and the flags, each said record by record from the tables of the rules, and the conditions that every step keeps. -/

namespace Sys2Proof.Machine

/-! ### Flags -/

/-- The event flags after one event that found `flags`: SETTLED joins them when the event took the part from not settled
to settled (R78). -/
def settledFlags (before after : State) (flags : BitVec 7) : BitVec 7 :=
  if before.settled = false ∧ after.settled = true then flags ||| EventFlag.settled.bit else flags

/-- The bit of each event flag in a flag set (spec 12, Field encodings). -/
def flagIn (flags : BitVec 7) (f : EventFlag) : Bool :=
  match f with
  | .clock => flags.getLsbD 0
  | .restarted => flags.getLsbD 1
  | .notchSaturated => flags.getLsbD 2
  | .limited => flags.getLsbD 3
  | .cueRefused => flags.getLsbD 4
  | .cue => flags.getLsbD 5
  | .settled => flags.getLsbD 6

/-! ### Runs of commands -/

/-- The part after commands run one after another. -/
def runCommands : List Instr → State → Host.Outcome State Fault Refusal
  | [], s => .next s
  | c :: rest, s =>
    match exec c s with
    | .next t => runCommands rest t
    | other => other

/-- The commands of the events that frames bring about, in the order in which a frame takes those that are due: the
clock switch, the service ramp, the channels by source, the feeds by source and zone, the mute ramps by zone, the block,
the window and the second (log 20). -/
def dueCommands : List Instr :=
  [.switchChange, .switchComplete, .standbyEntryComplete, .serviceRampComplete] ++
    (allSources.flatMap fun src =>
      [.openingComplete src, .closingComplete src, .trimRampComplete src] ++ allSlots.map (.sectionMovementComplete src)) ++
    (allFeeds.flatMap fun k =>
      [.glideComplete k.1 k.2, .gainMovementComplete k.1 k.2, .fadeInComplete k.1 k.2, .fadeOutComplete k.1 k.2]) ++
    allZones.map .muteRampComplete ++ [.blockEvaluation, .windowEnd, .agingAdvance]

/-- No event that frames bring about is due: no switch phase, ramp, glide, movement or count stands at its end. -/
def State.NothingDue (s : State) : Prop :=
  (∀ target, s.clock.flight = some (.down target) → target = .lockedExternal ∨ s.clock.gain ≠ 0) ∧
  (s.clock.flight = some .up → s.clock.gain ≠ 1) ∧
  s.service.ramp.due = false ∧
  (∀ src,
    (∀ r, s.gate src = .closing r ∨ (∃ turned, s.gate src = .opening r turned) → r.due = false) ∧
    (vget s.channels src).trimFactor.left ≠ some 0 ∧
    ∀ i sec, vget (vget s.sections src) i = some sec → sec.cut.left ≠ some 0) ∧
  (∀ k f, s.feed k = some f →
    (∀ g, f.glide = some g → g.position < g.length) ∧
    (∀ sm, f.smoothing = some sm → sm.factor.left ≠ some 0) ∧
    ∀ r, f.state = .fadingIn r ∨ f.state = .fadingOut r → r.due = false) ∧
  (∀ z, (vget s.mixers z).mute.due = false) ∧
  s.blockCount < 480 ∧ s.windowCount < 1024 ∧ (s.service.state = .standby ∨ s.secondCount < 48000)

/-! ### Responses -/

/-- The payload length of each request's accepted response (spec 12, Requests and payload lengths), LIST_NOTCHES apart. -/
def responseLength (code : Nat) : Option Nat :=
  match code with
  | 0x01 => some 7 | 0x02 => some 3 | 0x03 => some 1 | 0x09 => some 4 | 0x11 => some 9 | 0x14 => some 19
  | 0x16 => some 5 | 0x19 => some 6 | 0x1B => some 9 | 0x24 => some 8 | 0x25 => some 2 | 0x26 => some 17
  | 0x27 => some 49 | 0x28 => some 6 | 0x31 => some 15 | 0x33 => some 48 | 0x34 => some 72 | 0x38 => none
  | 0x41 => some 32 | _ => some 0

/-! ### Feeds and the derivation queue -/

/-- A feed as its Zone Mixer holds it after an event that leaves the part as `t`: its applied factor is where the
effective gain of that moment wants it, or moves there (R58, R144). -/
def State.mixed (t : State) (z : Zone) (f : Option Feed) : Option Feed :=
  f.map fun g => g.smoothed (t.effectiveGain z g)

/-- The queue after offers in an order: those already on it keep their places, the rest join at the tail (R47). -/
def joinQueue (queue offers : List FeedKey) : List FeedKey := queue ++ offers.filter fun k => !queue.contains k

/-- The zones of a source, as feed names in ascending zone order. -/
def zonesOf (src : Source) (f : Zone → Bool) : List FeedKey := (allZones.filter f).map fun z => (src, z)

/-- Whether a zone is in the desired set of a source's ACTIVE placement (R19): a member of the station's reach, in an
area that is JOINED while the service is 0 or SEPARATE with the placement's service (R13). -/
def State.wants (s : State) (k : FeedKey) : Bool :=
  match s.placement k.1 with
  | some p =>
    p.state == .active && (vget s.stations p.station).reach.getLsbD k.2.val &&
      match vget s.areas (vget s.zones k.2).area with
      | .joined => p.service == 0
      | .separate sv => p.service == sv
  | none => false

/-- A feed that starts fading out from a level: its pending tap is discarded (R24, R72). -/
def Feed.leaving (f : Feed) (level : Rat) (fadeTime : Nat) : Feed :=
  { f with
    state := .fadingOut ⟨level, -(1 / (48 * fadeTime)), false⟩
    glide := f.glide.map fun g => { g with pending := none } }

/-- What a drop leaves of a feed (R24). -/
def State.droppedFeed (s : State) (f : Feed) : Option Feed :=
  match f.state with
  | .waiting => none
  | .fadingOut _ => some f
  | .fadingIn r => if s.service.state = .standby then none else some (f.leaving r.value s.timing.fadeTime)
  | .steady => if s.service.state = .standby then none else some (f.leaving 1 s.timing.fadeTime)

/-- What reconciliation leaves for one zone of an ACTIVE placement, by the table of R26. -/
def State.reconciledFeed (s : State) (k : FeedKey) : Option Feed :=
  match s.wants k, s.feed k with
  | true, none =>
    some { state := .waiting, active := none, glide := none, baseGain := -192, limited := false,
           smoothing := none }
  | true, some f =>
    match f.state with
    | .fadingOut r => some { f with state := .fadingIn ⟨r.value, 1 / (48 * s.timing.fadeTime), false⟩ }
    | _ => some f
  | false, none => none
  | false, some f => s.droppedFeed f

/-- The sources of a choice whose placements are ACTIVE, ascending. -/
def State.activeAmong (s : State) (chosen : Source → Bool) : List Source :=
  allSources.filter fun src => chosen src && s.isPlaced src

/-- The derivation queue after the chosen placements are reconciled: dropped feeds leave it, and every wanted feed is on
it, the new entries ascending by source and then by zone (R26, R47, R48). -/
def State.reconciledQueue (s : State) (chosen : Source → Bool) : List FeedKey :=
  joinQueue (s.queue.filter fun k => !(s.activeAmong chosen).contains k.1 || s.wants k)
    ((s.activeAmong chosen).flatMap fun src => zonesOf src fun z => s.wants (src, z))

/-- The new records that reconciling the chosen placements takes (R29). -/
def State.newRecords (s : State) (chosen : Source → Bool) : Nat :=
  allFeeds.countP fun k => chosen k.1 && s.wants k && (s.feed k).isNone

/-- `t` is the part after an event found as `s` that leaves `base` but for what reconciling the chosen placements does:
their feeds by R26, every other feed as it was, the gains following, and SETTLED by R78. -/
def Reconciled (s base : State) (chosen : Source → Bool) (t : State) : Prop :=
  t = { base with
    feeds := t.feeds
    queue := base.reconciledQueue chosen
    link := { base.link with flags := settledFlags s t base.link.flags } } ∧
  ∀ k, t.feed k =
    t.mixed k.2 (if (base.activeAmong chosen).contains k.1 then base.reconciledFeed k else base.feed k)

/-- `t` is the part after an event found as `s` that leaves `base` but for the offers named: no feed changes beyond its
gain, and SETTLED follows R78. -/
def Offered (s base : State) (offers : List FeedKey) (t : State) : Prop :=
  t = { base with
    feeds := t.feeds
    queue := joinQueue base.queue offers
    link := { base.link with flags := settledFlags s t base.link.flags } } ∧
  ∀ k, t.feed k = t.mixed k.2 (base.feed k)

/-- `t` is the part after an event found as `s` that leaves `base`, with feeds as given, the gains following and SETTLED
by R78. -/
def FeedsBecome (s base : State) (feeds : FeedKey → Option Feed) (t : State) : Prop :=
  t = { base with feeds := t.feeds, link := { base.link with flags := settledFlags s t base.link.flags } } ∧
  ∀ k, t.feed k = t.mixed k.2 (feeds k)

/-! ### Gates -/

/-- A gate that starts opening from a gain on the attack step (R86). -/
def SourceRecord.opensFrom (r : SourceRecord) (gain : Rat) : Gate :=
  .opening ⟨gain, 1 / (48 * r.attackTime), false⟩ false

/-- A gate that starts closing from a gain on the release step (R86). -/
def SourceRecord.closesFrom (r : SourceRecord) (gain : Rat) : Gate := .closing ⟨gain, -(1 / (48 * r.releaseTime)), false⟩

/-- The table of R90. -/
def SourceRecord.forcedOpen (r : SourceRecord) : Gate → Gate
  | .closed => r.opensFrom 0
  | .closing g => r.opensFrom g.value
  | .opening g turned => .opening g turned
  | .hold _ => .opened
  | .opened => .opened

/-- The table of R91; a gate that a block evaluation has turned from CLOSING, with no frame since, closes from one attack
step above the gain it holds (R92; log 36). -/
def SourceRecord.forcedShut (r : SourceRecord) : Gate → Gate
  | .opened => r.closesFrom 1
  | .hold _ => r.closesFrom 1
  | .opening g turned => r.closesFrom (if turned then min 1 (g.value + g.step) else g.value)
  | .closing g => .closing g
  | .closed => .closed

/-- The gate of an ACTIVE source at the event that starts its drive, by its mode (R90, R91, R92). -/
def SourceRecord.driven (r : SourceRecord) (g : Gate) : Gate :=
  match r.gateMode with
  | .auto => g
  | .forcedOpen => r.forcedOpen g
  | .forcedShut => r.forcedShut g

/-- The gate of an AUTO source after a block evaluation, by the level (R87, R88, R89). -/
def SourceRecord.evaluated (r : SourceRecord) (level : Int) : Gate → Gate
  | .closed => if r.openThreshold ≤ level then r.opensFrom 0 else .closed
  | .opening g turned => .opening g turned
  | .opened =>
    if r.closeThreshold ≤ level then .opened
    else if r.holdTime = 0 then r.closesFrom 1
    else .hold r.holdTime
  | .hold timer =>
    if r.closeThreshold ≤ level then .opened
    else if timer ≤ 10 then r.closesFrom 1
    else .hold (timer - 10)
  | .closing g =>
    if r.openThreshold ≤ level then .opening ⟨g.value, 1 / (48 * r.attackTime), false⟩ true else .closing g

/-! ### Samples -/

/-- A product brought to a sample: saturated at full scale, and, where it is no whole number, one of its two whole neighbours
(R84, R146; log 6, log 7, log 28). -/
def IsSampleOf (product : Rat) (x : Int) : Prop :=
  (8388607 ≤ product → x = 8388607) ∧ (product ≤ -8388608 → x = -8388608) ∧
  (-8388608 ≤ product → product ≤ 8388607 → product - 1 < x ∧ (x : Rat) < product + 1)

/-- A sample after the sections of some slots in turn, each a filter at its present cut (R114; log 8). -/
def throughSections (secs : Vector (Option NotchSection) 16) : List SectionSlot → Rat → Rat
  | [], x => x
  | i :: rest, x => throughSections secs rest (match vget secs i with
    | some sec => filterOutput (sectionFilter sec.band sec.cut.value) sec.memory x
    | none => x)

/-- The slots of the sections in force, those with a present cut above 0, in the order in which a sample passes them: their
bands ascending, the lower slot first in one band (R114; log 18). -/
def IsChain (secs : Vector (Option NotchSection) 16) (chain : List SectionSlot) : Prop :=
  (∀ i, i ∈ chain ↔ ∃ sec, vget secs i = some sec ∧ 0 < sec.cut.value) ∧
  chain.Pairwise fun i j => ∀ a b, vget secs i = some a → vget secs j = some b →
    a.band < b.band ∨ (a.band = b.band ∧ i < j)

/-! ### Notches -/

/-- What a one-second advance leaves of a notch (R107). -/
def Notch.aged (decay : Nat) (n : Notch) : Option Notch :=
  match n.kind with
  | .fixed => some n
  | .dynamic =>
    if n.quietTime + 1 < decay then some { n with quietTime := n.quietTime + 1 }
    else if n.depth < 12 then none
    else some { n with depth := n.depth - 6, quietTime := 0 }

/-- A weakest DYNAMIC notch of a table (R105): the shallowest; among those the longest quiet; among those the lowest. -/
def IsWeakest (table : List Notch) (w : Notch) : Prop :=
  w ∈ table ∧ w.kind = .dynamic ∧ ∀ m ∈ table, m.kind = .dynamic →
    w.depth < m.depth ∨ (w.depth = m.depth ∧
      (m.quietTime < w.quietTime ∨ (m.quietTime = w.quietTime ∧ w.band ≤ m.band)))

/-- The frames that an outgoing section's movement has left (R114). -/
def NotchSection.framesLeft (sec : NotchSection) : Nat :=
  match sec.cut.left with
  | some n => n
  | none => 0

/-- Whether two bands lie within one band of each other (R104, R109). -/
def bandsMatch (a b : Band) : Prop := a.val ≤ b.val + 1 ∧ b.val ≤ a.val + 1

/-! ### Conditions every step keeps -/

/-- The nave stays joined (R117). -/
def State.NaveJoined (s : State) : Prop := vget s.areas 0 = .joined

/-- Every history keeps its canonical form. -/
def State.HistoriesOk (s : State) : Prop := ∀ src, (vget s.channels src).history.wf = true

/-- The queue and the feeds agree (R18, R21, R22, R46): no feed twice, none that is free or FADING_OUT, every WAITING feed;
and every feed in use belongs to a placement. -/
def State.FeedsOk (s : State) : Prop :=
  s.queue.Nodup ∧
  (∀ k ∈ s.queue, ∃ f, s.feed k = some f ∧ f.state.isFadingOut = false) ∧
  (∀ k f, s.feed k = some f → f.state = .waiting → k ∈ s.queue) ∧
  (∀ k f, s.feed k = some f → ∃ p, s.placement k.1 = some p)

/-- The placements and the feeds agree (R18, R21, R26, R35): an ACTIVE placement names a present station and feeds
exactly its desired set with feeds that are not FADING_OUT; a RETIRING one holds FADING_OUT feeds alone, and at least one;
at most 128 records are in use. -/
def State.PlacementsOk (s : State) : Prop :=
  s.FeedsOk ∧
  (∀ src p, s.placement src = some p → p.state = .active → (vget s.stations p.station).present = true) ∧
  (∀ src p z, s.placement src = some p → p.state = .active →
    (s.wants (src, z) = true ↔ ∃ f, s.feed (src, z) = some f ∧ f.state.isFadingOut = false)) ∧
  (∀ src p, s.placement src = some p → p.state = .retiring →
    (∃ z f, s.feed (src, z) = some f) ∧ ∀ z f, s.feed (src, z) = some f → f.state.isFadingOut = true) ∧
  allFeeds.countP (fun k => (s.feed k).isSome) ≤ 128

/-- Every feed past WAITING aims its applied factor at its base gain less its zone's attenuation (R58, R95, R144). -/
def State.GainsOk (s : State) : Prop :=
  ∀ k f, s.feed k = some f →
    (f.state = .waiting → f.smoothing = none) ∧
    (f.state ≠ .waiting → ∃ sm, f.smoothing = some sm ∧
      sm.effective = f.baseGain - attenuation (s.openCount k.2) ∧
      sm.factor.target = gainFactor sm.effective)

/-- Every Notch Table is as R103 says: at most 8 records, ascending, each pair at least 2 bands apart, the fields in
their ranges, and the quiet time of a FIXED notch 0. -/
def State.NotchTablesOk (s : State) : Prop :=
  ∀ src, (vget s.notches src).length ≤ 8 ∧
    (vget s.notches src).Pairwise (fun a b => a.band.val + 2 ≤ b.band.val) ∧
    ∀ n ∈ vget s.notches src, 6 ≤ n.depth ∧ n.depth ≤ 36 ∧ n.hits ≤ 255 ∧ n.quietTime ≤ s.timing.notchDecay ∧
      (n.kind = .fixed → n.quietTime = 0)

/-- The tables are in shape; every notch has one section of its own, which stands at or moves to its depth, and every section that is not
outgoing belongs to a notch (R114). -/
def State.NotchesOk (s : State) : Prop :=
  s.NotchTablesOk ∧
  ∀ src,
    (∀ n ∈ vget s.notches src, ∃ i sec, vget (vget s.sections src) i = some sec ∧
      sec.band = n.band ∧ sec.outgoing = false ∧ sec.cut.target = n.depth ∧
      ∀ j sec', vget (vget s.sections src) j = some sec' → sec'.band = n.band → sec'.outgoing = false → j = i) ∧
    (∀ i sec, vget (vget s.sections src) i = some sec → sec.outgoing = false →
      ∃ n ∈ vget s.notches src, n.band = sec.band)

/-- A ramp's value lies between 0 and 1. -/
def Ramp.inRange (r : Ramp) : Prop := 0 ≤ r.value ∧ r.value ≤ 1

/-- The delays, glides, gain and fade level of a feed keep their ranges (R20, R22, R55, R56, R64, R67, R70). -/
def Feed.inRange (f : Feed) : Prop :=
  -192 ≤ f.baseGain ∧ f.baseGain ≤ 24 ∧
  (∀ r, f.state = .fadingIn r ∨ f.state = .fadingOut r → r.inRange) ∧
  (f.state = .waiting ↔ f.active = none) ∧
  (f.state = .waiting → f.glide = none) ∧
  (∀ tap, f.active = some tap → tap ≤ 30000) ∧
  (∀ g, f.glide = some g → g.target ≤ 30000 ∧ 480 ≤ g.length ∧ g.length ≤ 24000 ∧ g.position ≤ g.length ∧
    ∀ tap, g.pending = some tap → tap ≤ 30000 ∧ tap ≠ g.target)

/-- The timing settings keep their ranges (R15). -/
def Timing.inRange (t : Timing) : Prop :=
  (10 ≤ t.glideTime ∧ t.glideTime ≤ 500) ∧ (20 ≤ t.fadeTime ∧ t.fadeTime ≤ 2000) ∧
  (10 ≤ t.notchDecay ∧ t.notchDecay ≤ 600) ∧ t.deadband ≤ 50 ∧ (5 ≤ t.debounce ∧ t.debounce ≤ 100)

/-- A source record keeps its ranges (R81). -/
def SourceRecord.inRange (r : SourceRecord) : Prop :=
  (-24 ≤ r.trim ∧ r.trim ≤ 48) ∧ (-200 ≤ r.openThreshold ∧ r.openThreshold ≤ 0) ∧
  (-204 ≤ r.closeThreshold ∧ r.closeThreshold ≤ r.openThreshold - 4) ∧ (r.holdTime ≤ 5000 ∧ r.holdTime % 10 = 0) ∧
  (1 ≤ r.attackTime ∧ r.attackTime ≤ 50) ∧ (50 ≤ r.releaseTime ∧ r.releaseTime ≤ 2000) ∧
  (24 ≤ r.ringMargin ∧ r.ringMargin ≤ 60) ∧ (2 ≤ r.persistence ∧ r.persistence ≤ 16)

/-- A zone record keeps its ranges (R7). -/
def ZoneRecord.inRange (z : ZoneRecord) : Prop :=
  (-192 ≤ z.baseLevel ∧ z.baseLevel ≤ 24) ∧ z.precedenceOffset ≤ 80 ∧ (-480 ≤ z.latencyTrim ∧ z.latencyTrim ≤ 480)

/-- The settings of zones, sources, timing, temperature and levels, the derived values and glides of feeds, and the fade,
gate and mute ramps lie in their ranges (R7, R14, R15, R18, R55, R56, R64, R70, R81, R86, R132, R145). The depths of notches
are in `NotchTablesOk`, the switch ramp in `ClockUnit.inCourse` and the service ramp in `ServiceOk`. -/
def State.RangesOk (s : State) : Prop :=
  s.timing.inRange ∧ (-100 ≤ s.reportedTemperature ∧ s.reportedTemperature ≤ 400) ∧
  (-100 ≤ s.temperatureInUse ∧ s.temperatureInUse ≤ 400) ∧
  (∀ z, (vget s.zones z).inRange) ∧ (∀ src, (vget s.sources src).inRange) ∧
  (∀ src p, s.placement src = some p → -40 ≤ p.level ∧ p.level ≤ 24) ∧
  (∀ l src st sv level, (vget s.cues l).action = .place src st sv level → -40 ≤ level ∧ level ≤ 24) ∧
  (∀ src r, s.gate src = .closing r → r.inRange) ∧
  (∀ src r turned, s.gate src = .opening r turned → r.inRange ∧ 0 ≤ r.step) ∧
  (∀ z, (vget s.mixers z).mute.inRange) ∧
  ∀ k f, s.feed k = some f → f.inRange

/-- The Clock Unit is in a course that R137 to R142 describe. -/
def ClockUnit.inCourse (c : ClockUnit) : Prop :=
  (0 ≤ c.gain ∧ c.gain ≤ 1) ∧ c.presence ≤ 24000 ∧ c.missed ≤ 3 ∧
  (c.state ≠ .awaitingExternal → c.presence = 0) ∧
  (c.state ≠ .lockedExternal → c.missed = 0) ∧
  (c.state = .awaitingExternal → c.gain = 0) ∧
  match c.flight with
  | none =>
    c.pendingSelection = none ∧ (c.state ≠ .awaitingExternal → c.gain = 1) ∧
    (c.selection = .internal ↔ c.state = .internal)
  | some .up => c.state ≠ .awaitingExternal ∧ (c.selection = .internal ↔ c.state = .internal)
  | some (.down .internal) => c.state ≠ .internal ∧ c.selection = .internal
  | some (.down .lockedExternal) => c.state = .awaitingExternal ∧ c.selection = .external
  | some (.down .awaitingExternal) => c.state = .internal ∧ c.selection = .external

/-- The service state and the service ramp move together (R161, R167). -/
def State.ServiceOk (s : State) : Prop :=
  0 < s.timing.fadeTime ∧ (0 ≤ s.service.ramp.value ∧ s.service.ramp.value ≤ 1) ∧
  match s.service.restart, s.service.state with
  | some _, _ => s.service.ramp.step < 0 ∨ (s.service.ramp.value = 0 ∧ s.service.ramp.step = 0)
  | none, .active => 0 < s.service.ramp.step ∨ (s.service.ramp.value = 1 ∧ s.service.ramp.step = 0)
  | none, .enteringStandby => s.service.ramp.step < 0
  | none, .standby => s.service.ramp.value = 0 ∧ s.service.ramp.step = 0

end Sys2Proof.Machine
end

