-- ==== Sys2Proof/WellFormed.lean ====
section
/-! DEFINITION. Which terms of Instr stand for something that can reach the part. Payload fields of requests need no
check: every value of a byte or of two bytes can be sent, and the request's own rule judges it (R168). -/

namespace Sys2Proof

/-- A command that can reach the part: FRAME_REJECTED carries the at most 50 bytes the receive buffer keeps (R148) and
they fail a frame check (R149); the interval between two frame-sync arrivals is not negative (R138). -/
def Instr.wellFormed : Instr → Bool
  | .frameRejected received => decide (received.length ≤ 50) && (frameProblem received).isSome
  | .frameSyncArrival interval => decide (0 ≤ interval)
  | _ => true

end Sys2Proof
end

