-- ==== Sys2Proof/Certificates/Slice0/Obligations.lean ====
section
/-! DEFINITION. The statements for the provers. A statement about one request says what `exec` answers when the request
is taken (`takesRequest`: no warm restart is in progress and none has ended the transaction, R151, R167), as an
equation for the whole part; a statement about an event says so where the event's work is in flight. -/

open Sys2Proof Sys2Proof.Machine

/-! ### The machine -/

/-- One step takes the command at the front of the queue and runs it on the part with the queue's rest; an empty queue
leaves the part as it is (log 1). -/
def Obligations.StepTakesTheFront : Prop :=
  (∀ (c : Instr) (rest : List Instr) (s : State), s.pending = c :: rest → step s = exec c { s with pending := rest }) ∧
  ∀ s : State, s.pending = [] → step s = .next s

/-- Every command answers a next state on every part, whatever it carries, and touches none of the commands that wait behind
it: no data and no state stops the machine. -/
def Obligations.EveryCommandRuns : Prop :=
  ∀ (i : Instr) (s : State), ∃ t, exec i s = .next t ∧ t.pending = s.pending

/-! ### The Control Link -/

/-- R149, R168, spec 12: the frame a host sends for a request is read back as that request with every field, whatever
filler bytes follow it. -/
def Obligations.FrameReadBack : Prop :=
  ∀ (i : Instr) (frame filler : List Byte), encodeRequest i = some frame → decodeFrame (frame ++ filler) = i

/-- R149: the three checks in their order, the code each gives, and the echoed command code; a discarded frame changes
nothing else. -/
def Obligations.FrameChecks : Prop :=
  ∀ (s : State), s.takesRequest = true →
    exec (.frameRejected []) s = .next (s.respond .shortFrame 0x00 []) ∧
    (∀ code : Byte, exec (.frameRejected [code]) s = .next (s.respond .shortFrame code [])) ∧
    ∀ (code n : Byte) (payload : List Byte),
      (requestLength code.toNat = none →
        exec (.frameRejected (code :: n :: payload)) s = .next (s.respond .unknownRequest code [])) ∧
      ∀ len, requestLength code.toNat = some len →
        (n.toNat ≠ len → exec (.frameRejected (code :: n :: payload)) s = .next (s.respond .badLength code [])) ∧
        (n.toNat = len → payload.length < len →
          exec (.frameRejected (code :: n :: payload)) s = .next (s.respond .shortFrame code []))

/-- R148, R150, R151, R167: at the fall of chip select the held response begins to shift out, its status byte carrying the
attention-pending indication of that moment above the result code; in a warm restart 0x00 bytes are shifted out and the
transaction's request is ended. The host reads the bytes in turn, and 0x00 for each further one; of the bytes shifted in, the
first 50 are kept. A fall with no rise since the last cannot happen and changes nothing (log 4). -/
def Obligations.TransactionStarts : Prop :=
  (∀ s : State, s.link.transaction = none → s.service.restart = none →
    exec .transactionStart s = .next { s with
      link := { s.link with
        receiveBuffer := []
        transaction := some {
          shiftOut :=
            (if s.link.flags &&& s.link.mask = 0 then BitVec.ofNat 8 s.link.response.result.code
              else BitVec.ofNat 8 (128 + s.link.response.result.code)) ::
            s.link.response.echo :: BitVec.ofNat 8 s.link.response.payload.length :: s.link.response.payload
          ended := false } } }) ∧
  (∀ s : State, s.link.transaction ≠ none → exec .transactionStart s = .next s) ∧
  (∀ s : State, s.link.transaction = none → s.service.restart.isSome = true →
    exec .transactionStart s = .next { s with
      link := { s.link with receiveBuffer := [], transaction := some { shiftOut := [], ended := true } } }) ∧
  (∀ (t : Transaction) (n : Nat),
    t.read n = t.shiftOut.take n ++ List.replicate (n - t.shiftOut.length) 0x00) ∧
  ∀ (l : Link) (bytes : List Byte), (l.receive bytes).receiveBuffer = bytes.take 50

/-- R167: from the trigger of a warm restart until its clearing no request is taken and the buffer is not replaced; nor is
the request of a transaction that a warm restart has ended (R151). A frame that fails a check ends its transaction there and
nothing more; bytes that pass every check are no rejected frame (log 4). -/
def Obligations.NoRequestInARestart : Prop :=
  (∀ (i : Instr) (code : Byte) (s : State), requestCode i = some code → s.takesRequest = false →
    exec i s = .next { s with link := { s.link with receiveBuffer := [], transaction := none } }) ∧
  ∀ (received : List Byte) (s : State), s.takesRequest = false →
    ((received.length < 2 ∨ ∃ (code n : Byte) (payload : List Byte), received = code :: n :: payload ∧
        (requestLength code.toNat = none ∨
          ∃ len, requestLength code.toNat = some len ∧ (n.toNat ≠ len ∨ payload.length < len))) →
      exec (.frameRejected received) s =
        .next { s with link := { s.link with receiveBuffer := [], transaction := none } }) ∧
    ∃ t, exec (.frameRejected received) s = .next t ∧ t.link.response = s.link.response

/-- R152: a request refused with any code changes nothing but the response held. -/
def Obligations.RefusalChangesNothing : Prop :=
  ∀ (i : Instr) (code : Byte) (s t : State), requestCode i = some code → i ≠ .restart → s.takesRequest = true →
    exec i s = .next t → t.link.response.result ≠ .ok → t = s.respond t.link.response.result code []

/-- R169, R150: the response to a taken request echoes its code; refused, it has no payload; accepted, it has the length
of the table, which for LIST_NOTCHES is 2 + 6 × the count of records. -/
def Obligations.ResponseShape : Prop :=
  ∀ (i : Instr) (code : Byte) (s t : State), requestCode i = some code → i ≠ .restart → s.takesRequest = true →
    exec i s = .next t →
    t.link.response.echo = code ∧ t.link.transaction = none ∧ t.link.receiveBuffer = [] ∧
    (t.link.response.result ≠ .ok → t.link.response.payload = []) ∧
    (t.link.response.result = .ok → ∀ n, responseLength code.toNat = some n →
      t.link.response.payload.length = n) ∧
    ∀ source : Byte, i = .listNotches source → ∀ src : Source, source.toNat = src.val →
      t.link.response.payload.length = 2 + 6 * (vget s.notches src).length

/-- R151: an event that does not come through the link leaves the response holding buffer as it stands, a cue action and a
standby entry among them. -/
def Obligations.EventsKeepTheResponse : Prop :=
  ∀ (i : Instr) (s t : State), requestCode i = none → (∀ received, i ≠ .frameRejected received) →
    (∀ pins, i ≠ .powerOnReset pins) → (∀ pins, i ≠ .clearing pins) →
    exec i s = .next t → t.link.response = s.link.response

/-! ### Requests that only read -/

/-- R153, R143, R62, R17, R41, R97: the reads without operands answer OK with their payloads and change nothing else. -/
def Obligations.PlainReads : Prop :=
  ∀ s : State, s.takesRequest = true →
    exec .nop s = .next (s.respond .ok 0x00 []) ∧
    exec .identify s = .next (s.respond .ok 0x01 [0x24, 0x16, 3, 16, 24, 32, 128]) ∧
    exec .getClock s = .next (s.respond .ok 0x09
      [byteOf s.clock.selection.code, byteOf s.clock.state.code, yesNoByte s.clock.flight.isSome,
        match s.clock.pendingSelection with
        | some sel => byteOf sel.code
        | none => 0xFF]) ∧
    exec .getAlignment s = .next (s.respond .ok 0x19
      (intBytes s.reportedTemperature ++ intBytes s.temperatureInUse ++
        [byteOf s.queue.length, yesNoByte s.settled])) ∧
    exec .getTiming s = .next (s.respond .ok 0x1B
      (natBytes s.timing.glideTime ++ natBytes s.timing.fadeTime ++ [byteOf s.timing.fadeShape.code] ++
        natBytes s.timing.notchDecay ++ [byteOf s.timing.deadband, byteOf s.timing.debounce])) ∧
    exec .getPool s = .next (s.respond .ok 0x28
      (let used := allFeeds.countP fun k => (s.feed k).isSome
       let inState (code : Nat) := allFeeds.countP fun k => (s.feed k).any fun f => f.state.code == code
       [byteOf used, byteOf (128 - used), byteOf (inState 0), byteOf (inState 1), byteOf (inState 2),
         byteOf (inState 3)])) ∧
    exec .getMeters s = .next (s.respond .ok 0x33
      (allSources.flatMap fun src =>
        intBytes (vget s.channels src).level ++ [byteOf (vget s.channels src).gate.code]))

/-- R5, R12, R126, R83, R113: the reads of the Building Store, of a source record and of a Notch Table, whose records stand in
ascending band order as the table holds them. -/
def Obligations.RecordReads : Prop :=
  (∀ (s : State) (b : Byte), s.takesRequest = true →
    (32 ≤ b.toNat → exec (.getStation b) s = .next (s.respond .outOfRange 0x11 [])) ∧
    (∀ st : StationId, b.toNat = st.val →
      ((vget s.stations st).present = false → exec (.getStation b) s = .next (s.respond .absent 0x11 [])) ∧
      ((vget s.stations st).present = true → exec (.getStation b) s = .next (s.respond .ok 0x11
        (intBytes (vget s.stations st).position.x ++ intBytes (vget s.stations st).position.y ++
          intBytes (vget s.stations st).position.z ++ zoneSetBytes (vget s.stations st).reach)))) ∧
    (24 ≤ b.toNat → exec (.getZone b) s = .next (s.respond .outOfRange 0x14 [])) ∧
    (∀ z : Zone, b.toNat = z.val → exec (.getZone b) s = .next (s.respond .ok 0x14
      (let r := vget s.zones z
       intBytes r.speaker.x ++ intBytes r.speaker.y ++ intBytes r.speaker.z ++
         intBytes r.listener.x ++ intBytes r.listener.y ++ intBytes r.listener.z ++ [byteOf r.area.val] ++
         intBytes r.baseLevel ++ [byteOf r.precedenceOffset] ++ intBytes r.latencyTrim ++ [yesNoByte r.mute]))) ∧
    (8 ≤ b.toNat → exec (.getArea b) s = .next (s.respond .outOfRange 0x16 [])) ∧
    ∀ a : AreaId, b.toNat = a.val → exec (.getArea b) s = .next (s.respond .ok 0x16
      ((match vget s.areas a with
        | .joined => [0, 0xFF]
        | .separate sv => [1, byteOf sv.val]) ++
        zoneSetBytes (BitVec.ofFnLE fun z : Zone => decide ((vget s.zones z).area = a))))) ∧
  (∀ (s : State) (b : Byte), s.takesRequest = true →
    (16 ≤ b.toNat → exec (.getSource b) s = .next (s.respond .outOfRange 0x31 []) ∧
      exec (.listNotches b) s = .next (s.respond .outOfRange 0x38 [])) ∧
    ∀ src : Source, b.toNat = src.val →
      exec (.getSource b) s = .next (s.respond .ok 0x31
        (let r := vget s.sources src
         [(match r.gateMode with
           | .auto => 0
           | .forcedOpen => 1
           | .forcedShut => 2 : Byte)] ++ intBytes r.trim ++ intBytes r.openThreshold ++ intBytes r.closeThreshold ++
           natBytes r.holdTime ++ [byteOf r.attackTime] ++ natBytes r.releaseTime ++
           [yesNoByte r.detectorEnable, byteOf r.ringMargin, byteOf r.persistence])) ∧
      exec (.listNotches b) s = .next (s.respond .ok 0x38
        ([byteOf (vget s.notches src).length,
          yesNoByte ((vget s.notches src).length == 8 && (vget s.notches src).all (·.kind == .fixed))] ++
          (vget s.notches src).flatMap fun n =>
            [byteOf n.band.val, byteOf n.depth, byteOf n.kind.code] ++ natBytes n.quietTime ++ [byteOf n.hits])))

/-- R38, R39, R40: the lookups of the Placement Table and the Feed Pool. The fade level reported is that of the ramp's record,
which stands one step short of its end while its completion is due (log 2). -/
def Obligations.PlacementReads : Prop :=
  ∀ (s : State) (a b : Byte), s.takesRequest = true →
    (16 ≤ a.toNat → exec (.getPlacement a) s = .next (s.respond .outOfRange 0x24 [])) ∧
    (32 ≤ a.toNat → exec (.findAtStation a) s = .next (s.respond .outOfRange 0x25 [])) ∧
    (16 ≤ a.toNat ∨ 24 ≤ b.toNat → exec (.getFeed a b) s = .next (s.respond .outOfRange 0x26 [])) ∧
    (∀ st : StationId, a.toNat = st.val → exec (.findAtStation a) s = .next (s.respond .ok 0x25
      (halfBytes (BitVec.ofFnLE fun src : Source =>
        (s.placement src).any fun p => p.state == .active && p.station == st)))) ∧
    ∀ src : Source, a.toNat = src.val →
      (s.placement src = none → exec (.getPlacement a) s = .next (s.respond .absent 0x24 [])) ∧
      (∀ p, s.placement src = some p → exec (.getPlacement a) s = .next (s.respond .ok 0x24
        ([byteOf p.station.val, byteOf p.service.val] ++ intBytes p.level ++ [byteOf p.state.code] ++
          zoneSetBytes (BitVec.ofFnLE fun z : Zone => (s.feed (src, z)).isSome)))) ∧
      ∀ z : Zone, b.toNat = z.val →
        (s.feed (src, z) = none → exec (.getFeed a b) s = .next (s.respond .absent 0x26 [])) ∧
        ∀ f, s.feed (src, z) = some f →
          let tap (t : Option Nat) : List Byte := match t with
            | some n => natBytes n
            | none => [0xFF, 0xFF]
          exec (.getFeed a b) s = .next (s.respond .ok 0x26
            ([(match f.state with
              | .waiting => 0
              | .fadingIn _ => 1
              | .steady => 2
              | .fadingOut _ => 3 : Byte)] ++
              tap f.active ++
              (match f.glide with
                | none => [0xFF, 0xFF, 0xFF, 0xFF, 0, 0, 0, 0]
                | some g => natBytes g.target ++ tap g.pending ++ natBytes g.position ++ natBytes g.length) ++
              (match f.state with
                | .waiting => natBytes 0
                | .fadingIn r => natBytes (r.value * 32768 + 1 / 2).floor.toNat
                | .steady => natBytes 32768
                | .fadingOut r => natBytes (r.value * 32768 + 1 / 2).floor.toNat) ++
              intBytes f.baseGain ++ [yesNoByte f.limited, yesNoByte (decide ((src, z) ∈ s.queue))]))

/-- R42, R133, R147, R159: the three reads that clear: each returns what stood before its clearing. -/
def Obligations.ClearingReads : Prop :=
  ∀ s : State, s.takesRequest = true →
    exec .listLimited s = .next ({ s with link := { s.link with flags := s.link.flags &&& 0b1110111 } }.respond .ok 0x27
      ((allSources.flatMap fun src => zoneSetBytes (BitVec.ofFnLE fun z : Zone =>
          (s.feed (src, z)).any fun f : Feed => f.limited)) ++
        [byteOf (allFeeds.countP fun k => (s.feed k).any fun f : Feed => f.limited)])) ∧
    exec .getCueStatus s = .next ({ s with
      cues := vgen fun l => { vget s.cues l with delta := false, refused := false }
      link := { s.link with flags := s.link.flags &&& 0b1001111 } }.respond .ok 0x41
        (allLines.flatMap fun l =>
          [yesNoByte (vget s.cues l).debounced, yesNoByte (vget s.cues l).delta, yesNoByte (vget s.cues l).refused,
            byteOf (vget s.cues l).lastResult.code])) ∧
    exec .getZoneMeters s = .next ({ s with
      mixers := vgen fun z => { vget s.mixers z with peak := -240, clip := false } }.respond .ok 0x34
        (allZones.flatMap fun z => intBytes (vget s.mixers z).peak ++ [yesNoByte (vget s.mixers z).clip]))

/-! ### Event flags -/

/-- R154, R157, R158, R155: GET_CAUSE returns the flag of highest priority that is set and enabled with its detail and all
flags set, and clears RESTARTED or SETTLED when it is the cause. The detail is the clock state, the cause of the last reset,
the lowest saturated source, the count of LIMITED feeds, or the lowest line marked. ACK_EVENTS clears each named flag, except
CLOCK in AWAITING_EXTERNAL and NOTCH_SATURATED while a source is saturated, and returns the flags then set. -/
def Obligations.CauseAndAcknowledge : Prop :=
  (∀ s : State, s.takesRequest = true →
    (s.link.flags &&& s.link.mask = 0 →
      exec .getCause s = .next (s.respond .ok 0x02 [0, 0, flagSetByte s.link.flags])) ∧
    ∀ f : EventFlag, flagIn (s.link.flags &&& s.link.mask) f = true →
      (∀ g : EventFlag, flagIn (s.link.flags &&& s.link.mask) g = true → f.index ≤ g.index) →
      let detail : Byte := match f with
        | .clock => match s.clock.state with
          | .internal => 0
          | .lockedExternal => 1
          | .awaitingExternal => 2
        | .restarted => match s.link.restartCause with
          | .powerOn => 0
          | .resetPin => 1
          | .restartRequest => 2
        | .notchSaturated =>
          match (List.finRange 16).find? fun src : Source =>
            (vget s.notches src).length == 8 && (vget s.notches src).all (·.kind == .fixed) with
          | some src => BitVec.ofNat 8 src.val
          | none => 0xFF
        | .limited => BitVec.ofNat 8 (allFeeds.countP fun k => (s.feed k).any fun f : Feed => f.limited)
        | .cueRefused => match (List.finRange 8).find? fun l : Line => (vget s.cues l).refused with
          | some l => BitVec.ofNat 8 l.val
          | none => 0
        | .cue => match (List.finRange 8).find? fun l : Line => (vget s.cues l).delta with
          | some l => BitVec.ofNat 8 l.val
          | none => 0
        | .settled => 0
      ∃ t : State, exec .getCause s = .next (t.respond .ok 0x02
          [byteOf (f.index + 1), detail, flagSetByte s.link.flags]) ∧
        t = { s with link := { s.link with flags := t.link.flags } } ∧
        ∀ g : EventFlag, flagIn t.link.flags g =
          (flagIn s.link.flags g && !(decide (g = f) && (decide (f = .restarted) || decide (f = .settled))))) ∧
  (∀ (s : State) (named : Byte), s.takesRequest = true →
    ∃ left : BitVec 7,
      exec (.ackEvents named) s =
        .next ({ s with link := { s.link with flags := left } }.respond .ok 0x03 [flagSetByte left]) ∧
      ∀ f : EventFlag, flagIn left f =
        (flagIn s.link.flags f && !(flagIn (named.setWidth 7) f &&
          !((decide (f = .clock) && decide (s.clock.state = .awaitingExternal)) ||
            (decide (f = .notchSaturated) && allSources.any fun src =>
              (vget s.notches src).length == 8 && (vget s.notches src).all (·.kind == .fixed))))))

/-- R156, R160: SET_EVENT_MASK writes the seven bits and touches no flag; Attention is asserted exactly while a set flag is
enabled; only SET_EVENT_MASK and power-on reset write the mask. -/
def Obligations.MaskAndAttention : Prop :=
  ((∀ (s : State) (mask : Byte), s.takesRequest = true →
    exec (.setEventMask mask) s =
      .next ({ s with link := { s.link with mask := mask.setWidth 7 } }.respond .ok 0x04 [])) ∧
  ∀ s : State, s.attention = true ↔
    ∃ f : EventFlag, flagIn s.link.flags f = true ∧ flagIn s.link.mask f = true) ∧
  (∀ (i : Instr) (s t : State), (∀ mask, i ≠ .setEventMask mask) → (∀ pins, i ≠ .powerOnReset pins) →
    exec i s = .next t → t.link.mask = s.link.mask)

/-- R77, R78: the part is settled exactly while the queue is empty and every feed in use is STEADY and not gliding; an event
that takes the part from not settled to settled raises SETTLED, and no other raises it. The commands that clear the flag,
the resets, and the two that may hold several cue actions in turn are left out of the second part. -/
def Obligations.SettledRaised : Prop :=
  (∀ s : State, s.settled = true ↔
    s.queue = [] ∧ ∀ k f, s.feed k = some f → f.state = .steady ∧ f.glide = none) ∧
  (∀ (i : Instr) (s t : State), i ≠ .getCause → (∀ flags, i ≠ .ackEvents flags) →
    (∀ pins, i ≠ .powerOnReset pins) → (∀ pins, i ≠ .clearing pins) →
    (∀ payload, i ≠ .setTiming payload) → (∀ pins, i ≠ .cuePinSample pins) →
    exec i s = .next t →
    flagIn t.link.flags .settled = (flagIn s.link.flags .settled || (!s.settled && t.settled)))

/-! ### The Building Store -/

/-- R2, R3, R4, R6: SET_STATION: an absent station is written and nothing else happens; a repeated one changes nothing; a
position change offers the feeds of the ACTIVE placements there; a reach change is pool-checked whole and reconciles those
placements. CLEAR_STATION is refused while an ACTIVE placement names the station; else it leaves the station absent. -/
def Obligations.StationEdits : Prop :=
  (∀ (b : Byte) (position : RawPoint) (reach : ZoneSet) (s : State), s.takesRequest = true →
    (32 ≤ b.toNat → exec (.setStation b position reach) s = .next (s.respond .outOfRange 0x10 [])) ∧
    ∀ st : StationId, b.toNat = st.val →
      let new : Station := ⟨true, ⟨position.x.toInt, position.y.toInt, position.z.toInt⟩, reach⟩
      let old := vget s.stations st
      let written := { s with stations := vset s.stations st new }
      let here (src : Source) : Bool := (s.placement src).any fun p => p.station == st
      (old.present = false → exec (.setStation b position reach) s = .next (written.respond .ok 0x10 [])) ∧
      (old.present = true → old.reach = new.reach → old.position = new.position →
        exec (.setStation b position reach) s = .next (s.respond .ok 0x10 [])) ∧
      (old.present = true → old.reach = new.reach → old.position ≠ new.position →
        ∃ t, exec (.setStation b position reach) s = .next t ∧
          Offered s (written.respond .ok 0x10 [])
            ((s.activeAmong here).flatMap fun src => zonesOf src fun z => s.isOfferable (src, z)) t) ∧
      (old.present = true → old.reach ≠ new.reach → s.freeCount < written.newRecords here →
        exec (.setStation b position reach) s = .next (s.respond .poolFull 0x10 [])) ∧
      (old.present = true → old.reach ≠ new.reach → written.newRecords here ≤ s.freeCount → s.FeedsOk →
        ∃ t, exec (.setStation b position reach) s = .next t ∧
          Reconciled s (written.respond .ok 0x10 []) here t)) ∧
  (∀ (b : Byte) (s : State), s.takesRequest = true →
    (32 ≤ b.toNat → exec (.clearStation b) s = .next (s.respond .outOfRange 0x12 [])) ∧
    ∀ st : StationId, b.toNat = st.val →
      ((∃ src p, s.placement src = some p ∧ p.state = .active ∧ p.station = st) →
        exec (.clearStation b) s = .next (s.respond .inUse 0x12 [])) ∧
      ((∀ src p, s.placement src = some p → p.state = .active → p.station ≠ st) →
        ((vget s.stations st).present = false → exec (.clearStation b) s = .next (s.respond .ok 0x12 [])) ∧
        ((vget s.stations st).present = true → exec (.clearStation b) s =
          .next ({ s with stations := vset s.stations st ⟨false, ⟨0, 0, 0⟩, 0⟩ }.respond .ok 0x12 []))))

/-- R7, R8, R9, R10, R11: SET_ZONE. The numbers are clamped first; an area change is pool-checked and reconciles every
ACTIVE placement; a value change alone offers the zone's feeds; a mute change starts the mute ramp at the gain the last
frame had. -/
def Obligations.SetZoneEffects : Prop :=
  ∀ (p : ZonePayload) (s : State), s.takesRequest = true →
    (24 ≤ p.zone.toNat ∨ 8 ≤ p.area.toNat ∨ 2 ≤ p.mute.toNat →
      exec (.setZone p) s = .next (s.respond .outOfRange 0x13 [])) ∧
    ∀ (z : Zone) (a : AreaId) (mute : Bool), p.zone.toNat = z.val → p.area.toNat = a.val →
      p.mute.toNat = (if mute then 1 else 0) →
      let new : ZoneRecord := {
        speaker := ⟨p.speaker.x.toInt, p.speaker.y.toInt, p.speaker.z.toInt⟩
        listener := ⟨p.listener.x.toInt, p.listener.y.toInt, p.listener.z.toInt⟩
        area := a
        baseLevel := max (-192) (min 24 p.baseLevel.toInt)
        precedenceOffset := min 80 p.precedenceOffset.toNat
        latencyTrim := max (-480) (min 480 p.latencyTrim.toInt)
        mute := mute }
      let old := vget s.zones z
      let ramp : Ramp := ⟨(vget s.mixers z).mute.shown, if mute then -(1 / 960) else 1 / 960, false⟩
      let written := { s with
        zones := vset s.zones z new
        mixers := if old.mute = mute then s.mixers else vset s.mixers z { vget s.mixers z with mute := ramp } }
      (old.area = a → { old with mute := mute } = new →
        exec (.setZone p) s = .next (written.respond .ok 0x13 [])) ∧
      (old.area = a → { old with mute := mute } ≠ new →
        ∃ t, exec (.setZone p) s = .next t ∧
          Offered s (written.respond .ok 0x13 [])
            ((allSources.filter fun src => s.isOfferable (src, z)).map fun src => (src, z)) t) ∧
      (old.area ≠ a → s.freeCount < written.newRecords (fun _ => true) →
        exec (.setZone p) s = .next (s.respond .poolFull 0x13 [])) ∧
      (old.area ≠ a → written.newRecords (fun _ => true) ≤ s.freeCount → s.FeedsOk →
        ∃ t, exec (.setZone p) s = .next t ∧
          Reconciled s (written.respond .ok 0x13 []) (fun _ => true) t)

/-- R117, R118, R119, R120: SET_AREA. The nave and bad codes are refused; the stored record repeated has no effect; a
change is pool-checked whole and reconciles every ACTIVE placement. -/
def Obligations.SetAreaEffects : Prop :=
  ∀ (b m v : Byte) (s : State), s.takesRequest = true →
    (8 ≤ b.toNat ∨ b = 0 ∨ 2 ≤ m.toNat ∨ (m = 1 ∧ (v = 0 ∨ 8 ≤ v.toNat)) →
      exec (.setArea b m v) s = .next (s.respond .outOfRange 0x15 [])) ∧
    ∀ (a : AreaId) (new : AreaMode), a ≠ 0 → b.toNat = a.val →
      ((m = 0 ∧ new = .joined) ∨ ∃ sv : Service, m = 1 ∧ sv ≠ 0 ∧ v.toNat = sv.val ∧ new = .separate sv) →
      let written := { s with areas := vset s.areas a new }
      (vget s.areas a = new → exec (.setArea b m v) s = .next (s.respond .ok 0x15 [])) ∧
      (vget s.areas a ≠ new → s.freeCount < written.newRecords (fun _ => true) →
        exec (.setArea b m v) s = .next (s.respond .poolFull 0x15 [])) ∧
      (vget s.areas a ≠ new → written.newRecords (fun _ => true) ≤ s.freeCount → s.FeedsOk →
        ∃ t, exec (.setArea b m v) s = .next t ∧
          Reconciled s (written.respond .ok 0x15 []) (fun _ => true) t)

/-- R59, R60: SET_TEMPERATURE stores the clamped report; it is adopted when it lies a deadband from the temperature in use,
or differs from it at deadband 0, and then every feed that is not FADING_OUT is offered. -/
def Obligations.TemperatureReported : Prop :=
  ∀ (h : Half) (s : State), s.takesRequest = true →
    let report := max (-100) (min 400 h.toInt)
    let difference := (report - s.temperatureInUse).natAbs
    let adopted := (0 < s.timing.deadband ∧ s.timing.deadband ≤ difference) ∨ (s.timing.deadband = 0 ∧ 0 < difference)
    (¬ adopted → exec (.setTemperature h) s =
      .next ({ s with reportedTemperature := report }.respond .ok 0x18 [])) ∧
    (adopted → ∃ t, exec (.setTemperature h) s = .next t ∧
      Offered s ({ s with reportedTemperature := report, temperatureInUse := report }.respond .ok 0x18 [])
        (allSources.flatMap fun src => zonesOf src fun z => s.isOfferable (src, z)) t)

/-- R15, R16: SET_TIMING writes the six clamped settings and shortens the quiet times that a shorter decay time overtakes.
Where no pending cue level has held for the new debounce time, nothing else happens. Where one has, its line counts at once,
as an ordinary debounced change; the lines are taken ascending (log 19). -/
def Obligations.TimingWritten : Prop :=
  ∀ (p : TimingPayload) (s : State), s.takesRequest = true →
    (2 ≤ p.fadeShape.toNat → exec (.setTiming p) s = .next (s.respond .outOfRange 0x1A [])) ∧
    ∀ shape : FadeShape, p.fadeShape.toNat = shape.code →
      let new : Timing := {
        glideTime := max 10 (min 500 p.glideTime.toNat)
        fadeTime := max 20 (min 2000 p.fadeTime.toNat)
        fadeShape := shape
        notchDecay := max 10 (min 600 p.notchDecay.toNat)
        deadband := min 50 p.deadband.toNat
        debounce := max 5 (min 100 p.debounce.toNat) }
      let written : State := { s with
        timing := new
        notches := vgen fun src => (vget s.notches src).map fun n : Notch =>
          if n.kind = NotchKind.dynamic then { n with quietTime := min n.quietTime new.notchDecay } else n }
      s.NotchesOk →
      ((∀ l, (vget s.cues l).raw = (vget s.cues l).debounced ∨ (vget s.cues l).held < new.debounce) →
        exec (.setTiming p) s = .next (written.respond .ok 0x1A [])) ∧
      (s.timing ≠ new → ∃ u, runCommands (allLines.map .debouncedChange) written = .next u ∧
        exec (.setTiming p) s = .next (u.respond .ok 0x1A [])) ∧
      (s.timing = new → exec (.setTiming p) s = .next (s.respond .ok 0x1A []))

/-- The part does not move a station or a zone on its own: each record of the Building Store changes only by the requests
that write it and by power-on reset, and a warm restart keeps them all (R1, R7, R13, R14, R15). No step separates the nave
(R117). -/
def Obligations.BuildingKept : Prop :=
  (∀ s t : State, s.NaveJoined → step s = .next t → t.NaveJoined) ∧
  ∀ (i : Instr) (s t : State), (∀ pins, i ≠ .powerOnReset pins) → exec i s = .next t →
    ((∀ a b c, i ≠ .setStation a b c) → (∀ a, i ≠ .clearStation a) → t.stations = s.stations) ∧
    ((∀ p, i ≠ .setZone p) → t.zones = s.zones) ∧
    ((∀ a b c, i ≠ .setArea a b c) → t.areas = s.areas) ∧
    ((∀ p, i ≠ .setTiming p) → t.timing = s.timing) ∧
    ((∀ h, i ≠ .setTemperature h) →
      t.reportedTemperature = s.reportedTemperature ∧ t.temperatureInUse = s.temperatureInUse)

/-! ### Placements and feeds -/

/-- R30, R31, R32, R26: the checks of PLACE in their order, a refusal changing nothing; a PLACE that passes creates or revives
the placement, reconciles its feeds, and the source's gate takes up the drive of its mode (R86, R90, R91, R92). -/
def Obligations.PlaceEffects : Prop :=
  (∀ (a b c : Byte) (h : Half) (s : State), s.takesRequest = true →
    (16 ≤ a.toNat ∨ 32 ≤ b.toNat ∨ 8 ≤ c.toNat →
      exec (.place a b c h) s = .next (s.respond .outOfRange 0x20 [])) ∧
    ∀ (src : Source) (st : StationId) (sv : Service), a.toNat = src.val → b.toNat = st.val → c.toNat = sv.val →
      let written := s.setPlacement src (some ⟨st, sv, max (-40) (min 24 h.toInt), .active⟩)
      ((∃ p, s.placement src = some p ∧ p.state = .active) →
        exec (.place a b c h) s = .next (s.respond .alreadyPlaced 0x20 [])) ∧
      ((∀ p, s.placement src = some p → p.state = .retiring) → (vget s.stations st).present = false →
        exec (.place a b c h) s = .next (s.respond .absent 0x20 [])) ∧
      ((∀ p, s.placement src = some p → p.state = .retiring) → (vget s.stations st).present = true →
        s.freeCount < written.newRecords (· == src) →
        exec (.place a b c h) s = .next (s.respond .poolFull 0x20 []))) ∧
  (∀ (a b c : Byte) (h : Half) (s : State) (src : Source) (st : StationId) (sv : Service),
    s.takesRequest = true → s.FeedsOk → a.toNat = src.val → b.toNat = st.val → c.toNat = sv.val →
    (∀ p, s.placement src = some p → p.state = .retiring) → (vget s.stations st).present = true →
    let written := s.setPlacement src (some ⟨st, sv, max (-40) (min 24 h.toInt), .active⟩)
    written.newRecords (· == src) ≤ s.freeCount →
    let gate := if s.service.state = .standby then s.gate src else (vget s.sources src).driven (s.gate src)
    ∃ t, exec (.place a b c h) s = .next t ∧
      Reconciled s ((written.setGate src gate).respond .ok 0x20 []) (· == src) t)

/-- R33, R34: MOVE: its checks in their order, no effect at the present station, else the new station and its
reconciliation. SET_LEVEL stores the clamped level and offers every feed of the placement that is not FADING_OUT. -/
def Obligations.PlacementEdits : Prop :=
  (∀ (a b : Byte) (s : State), s.takesRequest = true →
    (16 ≤ a.toNat ∨ 32 ≤ b.toNat → exec (.move a b) s = .next (s.respond .outOfRange 0x21 [])) ∧
    ∀ (src : Source) (st : StationId), a.toNat = src.val → b.toNat = st.val →
      (s.placement src = none → exec (.move a b) s = .next (s.respond .absent 0x21 [])) ∧
      ∀ p, s.placement src = some p →
        (p.state = .retiring → exec (.move a b) s = .next (s.respond .retiring 0x21 [])) ∧
        (p.state = .active → (vget s.stations st).present = false →
          exec (.move a b) s = .next (s.respond .absent 0x21 [])) ∧
        (p.state = .active → (vget s.stations st).present = true → p.station = st →
          exec (.move a b) s = .next (s.respond .ok 0x21 [])) ∧
        (p.state = .active → (vget s.stations st).present = true → p.station ≠ st →
          let written := s.setPlacement src (some { p with station := st })
          (s.freeCount < written.newRecords (· == src) →
            exec (.move a b) s = .next (s.respond .poolFull 0x21 [])) ∧
          (written.newRecords (· == src) ≤ s.freeCount → s.FeedsOk →
            ∃ t, exec (.move a b) s = .next t ∧ Reconciled s (written.respond .ok 0x21 []) (· == src) t))) ∧
  ∀ (a : Byte) (h : Half) (s : State), s.takesRequest = true →
    (16 ≤ a.toNat → exec (.setLevel a h) s = .next (s.respond .outOfRange 0x22 [])) ∧
    ∀ src : Source, a.toNat = src.val →
      (s.placement src = none → exec (.setLevel a h) s = .next (s.respond .absent 0x22 [])) ∧
      ∀ p, s.placement src = some p →
        (p.state = .retiring → exec (.setLevel a h) s = .next (s.respond .retiring 0x22 [])) ∧
        (p.state = .active → ∃ t, exec (.setLevel a h) s = .next t ∧
          Offered s ((s.setPlacement src (some { p with level := max (-40) (min 24 h.toInt) })).respond .ok 0x22 [])
            (zonesOf src fun z => s.isOfferable (src, z)) t)

/-- R35, R36, R24, R91: RETIRE drops every feed of the placement, which is RETIRING from then on or gone with its last
feed; its source's gate is forced shut. -/
def Obligations.RetireEffects : Prop :=
  ∀ (a : Byte) (s : State), s.takesRequest = true →
    (16 ≤ a.toNat → exec (.retire a) s = .next (s.respond .outOfRange 0x23 [])) ∧
    ∀ src : Source, a.toNat = src.val →
      (s.placement src = none → exec (.retire a) s = .next (s.respond .absent 0x23 [])) ∧
      ∀ p, s.placement src = some p →
        (p.state = .retiring → exec (.retire a) s = .next (s.respond .ok 0x23 [])) ∧
        (p.state = .active → s.FeedsOk →
          let left (k : FeedKey) : Option Feed := if k.1 = src then (s.feed k).bind s.droppedFeed else s.feed k
          let gate :=
            if s.service.state = .standby then s.gate src else (vget s.sources src).forcedShut (s.gate src)
          let placed : Option Placement :=
            if (allZones.any fun z => (left (src, z)).isSome) then some { p with state := .retiring } else none
          ∃ t, exec (.retire a) s = .next t ∧
            FeedsBecome s ({ (s.setPlacement src placed).setGate src gate with
              queue := s.queue.filter fun k => k.1 != src }.respond .ok 0x23 []) left t)

/-! ### Derivation, glides and fades -/

/-- R46, R49, R50, R55, R56: a derivation takes the feed at the head of the queue and writes its delay, base gain and limit
mark from the values of the moment; a limit mark that goes from no
to yes raises LIMITED. Outside STANDBY the delay is applied by the table of R65, in STANDBY by R66. -/
def Obligations.DerivationResult : Prop :=
  ∀ (s : State) (k : FeedKey) (rest : List FeedKey) (f : Feed) (p : Placement),
    s.queue = k :: rest → s.feed k = some f → f.state.isFadingOut = false → s.placement k.1 = some p →
    let zone := vget s.zones k.2
    let total := totalDelay (vget s.stations p.station).position zone s.temperatureInUse
    let delay := (max 0 (min 30000 total)).toNat
    let written := { f with
      baseGain := max (-192) (min 24 (zone.baseLevel + p.level))
      limited := decide (30000 < total) }
    let start : Glide := ⟨delay, none, 0, s.timing.glideTime * 48⟩
    let derived : Feed :=
      if s.service.state = .standby then
        { written with active := some delay, glide := none, state := if f.state = .waiting then .steady else f.state }
      else if f.state = .waiting then
        { written with active := some delay, state := .fadingIn ⟨0, 1 / (48 * s.timing.fadeTime), false⟩ }
      else match f.glide with
        | none => if f.active = some delay then written else { written with glide := some start }
        | some g => { written with glide := some { g with pending := if delay = g.target then none else some delay } }
    let raised := if 30000 < total ∧ f.limited = false then s.link.flags ||| EventFlag.limited.bit else s.link.flags
    ∃ t, exec .derivation s = .next t ∧
      FeedsBecome s { s with queue := rest, link := { s.link with flags := raised } }
        (fun j => if j = k then some derived else s.feed j) t

/-- R51, R52, R53, R54, R55: a distance is the floor of the exact square root of the sum of the squared differences; the
speed of sound adds 606 × T / 10, truncated toward zero, to 331 300; the path samples are the exact quotient rounded half
up, 0 for a path difference of 0 or less; the total delay adds the offset in units of 24 samples and the trim. -/
def Obligations.DelayArithmetic : Prop :=
  (∀ a b : Point,
    (-32768 ≤ a.x ∧ a.x ≤ 32767 ∧ -32768 ≤ a.y ∧ a.y ≤ 32767 ∧ -32768 ≤ a.z ∧ a.z ≤ 32767) →
    (-32768 ≤ b.x ∧ b.x ≤ 32767 ∧ -32768 ≤ b.y ∧ b.y ≤ 32767 ∧ -32768 ≤ b.z ∧ b.z ≤ 32767) →
    let sum := (b.x - a.x) ^ 2 + (b.y - a.y) ^ 2 + (b.z - a.z) ^ 2
    (distance a b : Int) ^ 2 ≤ sum ∧ sum < ((distance a b : Int) + 1) ^ 2 ∧ distance a b ≤ 113509) ∧
  (∀ t : Int, -100 ≤ t → t ≤ 400 →
    (0 ≤ t → 10 * (speedOfSound t - 331300) ≤ 606 * t ∧ 606 * t < 10 * (speedOfSound t - 331300) + 10) ∧
    (t < 0 → 606 * t ≤ 10 * (speedOfSound t - 331300) ∧ 10 * (speedOfSound t - 331300) < 606 * t + 10) ∧
    325240 ≤ speedOfSound t ∧ speedOfSound t ≤ 355540) ∧
  (∀ delta t : Int, -100 ≤ t → t ≤ 400 → delta ≤ 113509 →
    (delta ≤ 0 → pathSamples delta (speedOfSound t) = 0) ∧
    (0 < delta →
      2 * (delta * 480000) < (2 * pathSamples delta (speedOfSound t) + 1) * speedOfSound t ∧
      (2 * pathSamples delta (speedOfSound t) - 1) * speedOfSound t ≤ 2 * (delta * 480000)) ∧
    pathSamples delta (speedOfSound t) ≤ 167520) ∧
  ∀ (station : Point) (zone : ZoneRecord) (t : Int),
    totalDelay station zone t =
      pathSamples ((distance station zone.listener : Int) - distance zone.speaker zone.listener) (speedOfSound t) +
        24 * zone.precedenceOffset + zone.latencyTrim

/-- R7, R56, R57, R58, R74, R84, R85, R95, R147: the open-microphone count, of gates OPENING, OPEN or HOLD and feeds FADING_IN or STEADY,
and its attenuation. The factor held for a level g is the multiple of 2^−21 nearest to 10^(g/40), m / 2^21 where
(2m − 1) / 2^22 ≤ 10^(g/40) < (2m + 1) / 2^22, and that of an effective gain is 0 at or below −192; so a zone at base level
−192 carries silently every feed of a placement at level 0 or below, at any count (log 35). The weight of a fade level
L is L under LINEAR, and under CONSTANT_DB 0 at 0, 1 at 1, and 10^(−4.8 (1 − L)) held in the same way (log 10). The level of a
block is its root mean square in hdB, that of a sample its magnitude in hdB, each rounded down, from −240 to 0, against
8 388 608. -/
def Obligations.LevelArithmetic : Prop :=
  (∀ (s : State) (z : Zone), s.openCount z ≤ 16 ∧
    (s.openCount z : Nat) = ((List.finRange 16).filter fun src : Source =>
      (match s.gate src with
        | .closed => false
        | .opening _ _ => true
        | .opened => true
        | .hold _ => true
        | .closing _ => false) &&
      (s.feed (src, z)).any fun f => match f.state with
        | .waiting => false
        | .fadingIn _ => true
        | .steady => true
        | .fadingOut _ => false).length ∧
    [0, 0, 6, 10, 12, 14, 16, 17, 18, 19, 20, 21, 22, 22, 23, 24, 24][s.openCount z]? =
      some (attenuation (s.openCount z))) ∧
  (∀ g : Int, -192 < g → g ≤ 48 → ∃ m : Nat, factorOf g = (m : Rat) / 2 ^ 21 ∧ 0 < m ∧
    (2 * m - 1) ^ 40 * 10 ^ (-g).toNat ≤ 2 ^ 880 * 10 ^ g.toNat ∧
    2 ^ 880 * 10 ^ g.toNat < (2 * m + 1) ^ 40 * 10 ^ (-g).toNat) ∧
  (∀ g : Int, gainFactor g = if g ≤ -192 then 0 else factorOf g) ∧
  (∀ (level : Int) (n : Nat), level ≤ 0 → gainFactor (baseGainOf (-192) level - attenuation n) = 0) ∧
  ((∀ level : Rat, fadeWeight .linear level = level) ∧ fadeWeight .constantDb 0 = 0 ∧ fadeWeight .constantDb 1 = 1 ∧
    ∀ (level : Rat) (p q : Nat), 0 < level → level ≤ 1 → 0 < q → 48 / 10 * (1 - level) = (p : Rat) / q →
      ∃ m : Nat, fadeWeight .constantDb level = (m : Rat) / 2 ^ 21 ∧ 0 < m ∧ m ≤ 2 ^ 21 ∧
        (2 * m - 1) ^ q * 10 ^ p ≤ 2 ^ (22 * q) ∧ 2 ^ (22 * q) < (2 * m + 1) ^ q * 10 ^ p) ∧
  (∀ energy : Nat,
    let full : Nat := (480 * 8388608 ^ 2) ^ 20
    (-240 ≤ blockLevel energy) ∧ blockLevel energy ≤ 0 ∧
    (-240 < blockLevel energy → full ≤ energy ^ 20 * 10 ^ (-blockLevel energy).toNat) ∧
    (blockLevel energy < 0 → energy ^ 20 * 10 ^ (-blockLevel energy - 1).toNat < full)) ∧
  (∀ x : Int,
    let full : Nat := 8388608 ^ 40
    (-240 ≤ sampleLevel x) ∧ sampleLevel x ≤ 0 ∧
    (-240 < sampleLevel x → full ≤ x.natAbs ^ 40 * 10 ^ (-sampleLevel x).toNat) ∧
    (sampleLevel x < 0 → x.natAbs ^ 40 * 10 ^ (-sampleLevel x - 1).toNat < full))

/-- R67, R71, R25, R36, R72: a glide whose position has reached its length makes its target the active tap, and a pending tap
starts a new glide at the glide time of that moment; a fade-in whose end has been reached leaves the feed STEADY; a fade-out
ends with the release of the record, and with the removal of a RETIRING placement whose last feed it was. None ends before
its frames have run. -/
def Obligations.GlidesAndFadesEnd : Prop :=
  (∀ (s : State) (src : Source) (z : Zone) (f : Feed) (g : Glide), s.feed (src, z) = some f → f.glide = some g →
    (g.position < g.length → exec (.glideComplete src z) s = .next s) ∧
    (g.length ≤ g.position → ∃ t, exec (.glideComplete src z) s = .next t ∧
      FeedsBecome s s (fun k => if k = (src, z) then some { f with
          active := some g.target
          glide := g.pending.map fun tap => ⟨tap, none, 0, s.timing.glideTime * 48⟩ } else s.feed k) t)) ∧
  (∀ (s : State) (src : Source) (z : Zone) (f : Feed) (r : Ramp), s.feed (src, z) = some f →
    (f.state = .fadingIn r ∨ f.state = .fadingOut r → r.due = false →
      exec (.fadeInComplete src z) s = .next s ∧ exec (.fadeOutComplete src z) s = .next s) ∧
    (f.state = .fadingIn r → r.due = true → ∃ t, exec (.fadeInComplete src z) s = .next t ∧
      FeedsBecome s s (fun k => if k = (src, z) then some { f with state := .steady } else s.feed k) t) ∧
    (f.state = .fadingOut r → r.due = true → (src, z) ∉ s.queue → ∃ t, exec (.fadeOutComplete src z) s = .next t ∧
      FeedsBecome s
        (if (s.placement src).any (fun p => p.state == .retiring) ∧
            (∀ z', z' ≠ z → s.feed (src, z') = none) then s.setPlacement src none else s)
        (fun k => if k = (src, z) then none else s.feed k) t))

/-! ### The Input Channels -/

/-- R81, R82, R84, R94, R99: SET_SOURCE clamps and writes the nine fields; a trim change starts a 480-frame movement from the
factor reached; a changed hold time reloads a running hold timer; a detector written to no stops. -/
def Obligations.SetSourceEffects : Prop :=
  ∀ (p : SourcePayload) (s : State), s.takesRequest = true →
    (16 ≤ p.source.toNat ∨ 2 ≤ p.detectorEnable.toNat →
      exec (.setSource p) s = .next (s.respond .outOfRange 0x30 [])) ∧
    ∀ (src : Source) (enable : Bool), p.source.toNat = src.val → p.detectorEnable.toNat = (if enable then 1 else 0) →
      let old := vget s.sources src
      let openAt := max (-200) (min 0 p.openThreshold.toInt)
      let new : SourceRecord := {
        trim := max (-24) (min 48 p.trim.toInt)
        gateMode := old.gateMode
        openThreshold := openAt
        closeThreshold := max (-204) (min (openAt - 4) p.closeThreshold.toInt)
        holdTime := min 5000 p.holdTime.toNat / 10 * 10
        attackTime := max 1 (min 50 p.attackTime.toNat)
        releaseTime := max 50 (min 2000 p.releaseTime.toNat)
        detectorEnable := enable
        ringMargin := max 24 (min 60 p.ringMargin.toNat)
        persistence := max 2 (min 16 p.persistence.toNat) }
      let c := vget s.channels src
      exec (.setSource p) s = .next ({ s with
        sources := vset s.sources src new
        channels := vset s.channels src { c with
          trimFactor :=
            if old.trim = new.trim then c.trimFactor else ⟨c.trimFactor.value, factorOf new.trim, some 480⟩
          gate := match c.gate with
            | .hold timer => .hold (if old.holdTime = new.holdTime then timer else new.holdTime)
            | g => g }
        detectors := if enable then s.detectors else vset s.detectors src ⟨0, none, false, []⟩ }.respond .ok 0x30 [])

/-- R93, R90, R91, R92: SET_GATE_MODE stores the mode; for a source with an ACTIVE placement outside STANDBY the gate takes
up the new drive at once; a mode equal to the stored one changes nothing. -/
def Obligations.SetGateModeEffects : Prop :=
  ∀ (a b : Byte) (s : State), s.takesRequest = true →
    (16 ≤ a.toNat ∨ 3 ≤ b.toNat → exec (.setGateMode a b) s = .next (s.respond .outOfRange 0x32 [])) ∧
    ∀ (src : Source) (m : GateMode), a.toNat = src.val → b.toNat = m.code →
      let old := vget s.sources src
      let written := { s with sources := vset s.sources src { old with gateMode := m } }
      (old.gateMode = m → exec (.setGateMode a b) s = .next (s.respond .ok 0x32 [])) ∧
      (old.gateMode ≠ m → s.isPlaced src = false ∨ s.service.state = .standby →
        exec (.setGateMode a b) s = .next (written.respond .ok 0x32 [])) ∧
      (old.gateMode ≠ m → s.isPlaced src = true → s.service.state ≠ .standby →
        ∃ t, exec (.setGateMode a b) s = .next t ∧
          FeedsBecome s ((written.setGate src ({ old with gateMode := m }.driven (s.gate src))).respond .ok 0x32 [])
            s.feed t)

/-- R85, R86, R87, R88, R89: at the end of a block of 480 frames its evaluation writes every level; a gate under the AUTO
drive compares it with its thresholds, any other is left alone; the counts and gains follow, and the next block begins.
Before that end there is none. -/
def Obligations.BlockEvaluated : Prop :=
  (∀ s : State, s.blockCount < 480 → exec .blockEvaluation s = .next s) ∧
  ∀ s : State, 480 ≤ s.blockCount → ∃ t, exec .blockEvaluation s = .next t ∧
    FeedsBecome s { s with blockCount := 0, channels := t.channels, detectors := t.detectors } s.feed t ∧
    ∀ src : Source,
      let c := vget s.channels src
      let r := vget s.sources src
      let level := blockLevel c.blockEnergy
      let auto := s.service.state ≠ .standby ∧ s.isPlaced src = true ∧ r.gateMode = .auto
      (auto → vget t.channels src = { c with level := level, blockEnergy := 0, gate := r.evaluated level c.gate }) ∧
      (¬ auto → vget t.channels src = { c with level := level, blockEnergy := 0 }) ∧
      vget t.detectors src =
        if auto ∧ (r.evaluated level c.gate).counted = false then ⟨0, none, false, []⟩ else vget s.detectors src

/-- R87, R88, R89: the end of an opening ramp leaves the gate OPEN, the end of a closing ramp CLOSED, and neither comes before
the ramp's frames have run. A hold under the AUTO drive expires at the end of a block whose level is below the close
threshold, where its timer falls to 0, or at once with a hold time of 0: the level is written and the gate turns to CLOSING
from gain 1; no hold expires elsewhere. A source's detector stops with its gate (R99). -/
def Obligations.GateEvents : Prop :=
  ∀ (s : State) (src : Source),
    (∀ r, s.gate src = .closing r ∨ (∃ turned, s.gate src = .opening r turned) → r.due = false →
      exec (.openingComplete src) s = .next s ∧ exec (.closingComplete src) s = .next s) ∧
    (∀ r turned, s.gate src = .opening r turned → r.due = true → ∃ t, exec (.openingComplete src) s = .next t ∧
      FeedsBecome s (s.setChannel src { vget s.channels src with gate := .opened }) s.feed t) ∧
    (∀ r, s.gate src = .closing r → r.due = true → ∃ t, exec (.closingComplete src) s = .next t ∧
      FeedsBecome s ((s.setChannel src { vget s.channels src with gate := .closed }).setDetector src
        ⟨0, none, false, []⟩) s.feed t) ∧
    let r := vget s.sources src
    let level := blockLevel (vget s.channels src).blockEnergy
    let expires : Prop := 480 ≤ s.blockCount ∧ s.service.state ≠ .standby ∧ s.isPlaced src = true ∧ r.gateMode = .auto ∧
      level < r.closeThreshold ∧
      ((∃ timer, s.gate src = .hold timer ∧ timer ≤ 10) ∨ (s.gate src = .opened ∧ r.holdTime = 0))
    (¬ expires → exec (.holdExpiry src) s = .next s) ∧
    (expires → ∃ t, exec (.holdExpiry src) s = .next t ∧
      FeedsBecome s ((s.setChannel src { vget s.channels src with
        level := level, gate := .closing ⟨1, -(1 / (48 * r.releaseTime)), false⟩ }).setDetector src
          ⟨0, none, false, []⟩) s.feed t)

/-- R84, R114, R144, R145, R161, R167: the ends of the movements and ramps that change nothing else: a trim ramp, a section's
movement (an outgoing section becomes free), a gain movement, a mute ramp, a rising service ramp, and the falling one of a
warm restart's quiet phase. None ends before its frames have run. -/
def Obligations.MovementsEnd : Prop :=
  ∀ s : State,
    (∀ src : Source, let factor := (vget s.channels src).trimFactor
      (factor.left ≠ some 0 → exec (.trimRampComplete src) s = .next s) ∧
      (factor.left = some 0 →
        exec (.trimRampComplete src) s = .next { s with channels := vset s.channels src { vget s.channels src with
          trimFactor := ⟨factor.target, factor.target, none⟩ } })) ∧
    (∀ (src : Source) (i : SectionSlot) (sec : NotchSection), vget (vget s.sections src) i = some sec →
      (sec.cut.left ≠ some 0 → exec (.sectionMovementComplete src i) s = .next s) ∧
      (sec.cut.left = some 0 → exec (.sectionMovementComplete src i) s = .next { s with
        sections := vset s.sections src (vset (vget s.sections src) i
          (if sec.outgoing then none else some { sec with cut := ⟨sec.cut.target, sec.cut.target, none⟩ })) })) ∧
    (∀ (src : Source) (z : Zone) (f : Feed) (sm : GainSmoothing), s.feed (src, z) = some f → f.smoothing = some sm →
      (sm.factor.left ≠ some 0 → exec (.gainMovementComplete src z) s = .next s) ∧
      (sm.factor.left = some 0 →
        exec (.gainMovementComplete src z) s = .next (s.setFeed (src, z) (some { f with
          smoothing := some { sm with factor := ⟨sm.factor.target, sm.factor.target, none⟩ } })))) ∧
    (∀ z : Zone, let mute := (vget s.mixers z).mute
      (mute.due = false → exec (.muteRampComplete z) s = .next s) ∧
      (mute.due = true → mute.step ≠ 0 →
        exec (.muteRampComplete z) s = .next { s with mixers := vset s.mixers z { vget s.mixers z with
          mute := ⟨if 0 < mute.step then 1 else 0, 0, false⟩ } })) ∧
    (s.service.ramp.due = false → exec .serviceRampComplete s = .next s) ∧
    (s.service.ramp.due = true → 0 < s.service.ramp.step →
      exec .serviceRampComplete s = .next { s with service := { s.service with ramp := ⟨1, 0, false⟩ } }) ∧
    (s.service.ramp.due = true → s.service.ramp.step < 0 → s.service.restart ≠ none →
      exec .serviceRampComplete s = .next { s with service := { s.service with ramp := ⟨0, 0, false⟩ } })

/-! ### Ring Detectors and Notch Tables -/

/-- R114: the sections of a channel. The section of a notch that changes depth starts a movement of 2400 frames from the cut
reached toward the new depth; that of a notch that leaves becomes outgoing and moves toward 0. A notch placed takes the
lowest free section (log 18), its cut starting at 0; where none is free, the outgoing one whose movement started earliest,
which has the fewest frames left, the lower of two that started together (log 18). Its filter starts with no memory
(log 8). -/
def Obligations.SectionsFollow : Prop :=
  ∀ (secs : Vector (Option NotchSection) 16) (band : Band) (depth : Nat),
    let new : NotchSection := ⟨band, false, ⟨0, depth, some 2400⟩, ⟨0, 0, 0, 0⟩⟩
    (∀ i, vget (retuneSection secs band depth) i = (vget secs i).map fun sec =>
      if sec.band = band ∧ sec.outgoing = false then { sec with cut := ⟨sec.cut.value, depth, some 2400⟩ } else sec) ∧
    (∀ i, vget (retireSection secs band) i = (vget secs i).map fun sec =>
      if sec.band = band ∧ sec.outgoing = false then
        { sec with outgoing := true, cut := ⟨sec.cut.value, 0, some 2400⟩ } else sec) ∧
    (∀ i, vget secs i = none → (∀ j, j < i → vget secs j ≠ none) →
      placeSection secs band depth = vset secs i (some new)) ∧
    (∀ i sec, (∀ j, vget secs j ≠ none) → vget secs i = some sec → sec.outgoing = true →
      (∀ j other, vget secs j = some other → other.outgoing = true →
        sec.framesLeft < other.framesLeft ∨ (sec.framesLeft = other.framesLeft ∧ i ≤ j)) →
      placeSection secs band depth = vset secs i (some new)) ∧
    ((∀ j, ∃ sec, vget secs j = some sec ∧ sec.outgoing = false) → placeSection secs band depth = secs)

/-- R104, R105, R106, R101: a ring candidate hits its matching notch; unmatched, it places a DYNAMIC notch at depth 12, with
the weakest DYNAMIC notch evicted from a full table; a saturated table drops it and NOTCH_SATURATED is raised. The
detector starts afresh in every case, and the sections follow R114. -/
def Obligations.RingCandidateHandled : Prop :=
  ∀ (s : State) (src : Source) (b : Band), s.detectorRuns src = true → s.NotchesOk →
    let table := vget s.notches src
    let after := s.setDetector src { vget s.detectors src with count := 0, runBand := none }
    (∀ n ∈ table, bandsMatch b n.band →
      (∀ m ∈ table, bandsMatch b m.band → n.band = b ∨ (m.band ≠ b ∧ n.band ≤ m.band)) →
      let hit : Notch := { n with depth := min 36 (n.depth + 6), hits := min 255 (n.hits + 1), quietTime := 0 }
      exec (.ringCandidate src b) s = .next { after with
        notches := vset s.notches src (table.map fun m => if m = n then hit else m)
        sections := if n.depth = 36 then s.sections
          else vset s.sections src (retuneSection (vget s.sections src) n.band hit.depth) }) ∧
    ((∀ n ∈ table, ¬ bandsMatch b n.band) →
      let new : Notch := ⟨b, 12, .dynamic, 0, 1⟩
      (table.length < 8 → ∃ t, exec (.ringCandidate src b) s = .next t ∧
        t = { after with
          notches := t.notches
          sections := vset s.sections src (placeSection (vget s.sections src) b 12) } ∧
        (∀ other, other ≠ src → vget t.notches other = vget s.notches other) ∧
        ∀ m, m ∈ vget t.notches src ↔ m = new ∨ m ∈ table) ∧
      (table.length = 8 → ∀ w, IsWeakest table w → ∃ t, exec (.ringCandidate src b) s = .next t ∧
        t = { after with
          notches := t.notches
          sections := vset s.sections src (placeSection (retireSection (vget s.sections src) w.band) b 12) } ∧
        (∀ other, other ≠ src → vget t.notches other = vget s.notches other) ∧
        ∀ m, m ∈ vget t.notches src ↔ m = new ∨ (m ∈ table ∧ m ≠ w)) ∧
      (table.length = 8 → (∀ n ∈ table, n.kind = .fixed) →
        exec (.ringCandidate src b) s = .next { after with
          link := { s.link with flags := s.link.flags ||| EventFlag.notchSaturated.bit } }))

/-- R99, R100, R101: at the end of a window of 1024 frames a detector that has not run throughout it discards the window; of
an analysed one the count follows the window's candidate, and where it reaches the persistence the candidate is handed over
in the same event: the table, its sections and NOTCH_SATURATED are as RING_CANDIDATE makes them. A window's candidate is the
lowest of the bands with the highest level, only where that level stands the margin above the mean and at least at −120.
Silence measures −240 in every band. Before the window's end there is no such event. -/
def Obligations.WindowEnds : Prop :=
  (∀ s : State, s.windowCount < 1024 → exec .windowEnd s = .next s) ∧
  (∀ s : State, 1024 ≤ s.windowCount →
    (∀ src, (vget s.detectors src).analysing = true → s.detectorRuns src = true) →
    let candidate (src : Source) : Option Band :=
      candidateBand (vget (bandLevels (vget s.detectors src).window)) (vget s.sources src).ringMargin
    let updated (src : Source) : Detector :=
      if (vget s.detectors src).analysing then (vget s.detectors src).afterWindow (candidate src)
      else vget s.detectors src
    let handed (src : Source) (b : Band) : Prop :=
      (vget s.detectors src).analysing = true ∧ candidate src = some b ∧
        (vget s.sources src).persistence ≤ (updated src).count
    let dropped : Prop := ∃ src b, handed src b ∧ (vget s.notches src).length = 8 ∧
      ∀ n ∈ vget s.notches src, n.kind = .fixed ∧ ¬ bandsMatch b n.band
    ∃ t, exec .windowEnd s = .next t ∧
      t = { s with
        windowCount := 0, detectors := t.detectors, notches := t.notches, sections := t.sections
        link := { s.link with flags := t.link.flags } } ∧
      (dropped → t.link.flags = s.link.flags ||| EventFlag.notchSaturated.bit) ∧
      (¬ dropped → t.link.flags = s.link.flags) ∧
      ∀ src : Source,
        ((∀ b, ¬ handed src b) →
          vget t.detectors src = ⟨(updated src).count, (updated src).runBand, false, []⟩ ∧
          vget t.notches src = vget s.notches src ∧ vget t.sections src = vget s.sections src) ∧
        ∀ b, handed src b → ∃ u, exec (.ringCandidate src b) s = .next u ∧
          vget t.detectors src = ⟨0, none, false, []⟩ ∧
          vget t.notches src = vget u.notches src ∧ vget t.sections src = vget u.sections src) ∧
  (∀ (window : List Int) (b : Band), -240 ≤ vget (bandLevels window) b ∧
    ((∀ x ∈ window, x = 0) → vget (bandLevels window) b = -240)) ∧
  (∀ (levels : Band → Int) (margin : Nat),
    let mean := (allBands.map levels).sum / 208
    ∀ b : Band, candidateBand levels margin = some b ↔
      ((∀ c, levels c ≤ levels b) ∧ (∀ c, levels c = levels b → b ≤ c) ∧
        mean + margin ≤ levels b ∧ -120 ≤ levels b)) ∧
  (∀ d : Detector,
    d.afterWindow none = { d with count := 0, runBand := none } ∧
    ∀ b : Band,
      (∀ r, d.runBand = some r → 0 < d.count → bandsMatch b r →
        d.afterWindow (some b) = { d with count := d.count + 1 }) ∧
      ((d.count = 0 ∨ ∀ r, d.runBand = some r → ¬ bandsMatch b r) →
        d.afterWindow (some b) = { d with count := 1, runBand := some b }))

/-- R16, R107, R114: outside STANDBY, at the end of a second of 48 000 frames, the one-second advance ages every DYNAMIC notch of
every table, and no FIXED one, each with its section; before that end there is none. One aging step, at such an end, of a
DYNAMIC notch that the advance brings to the decay time or finds there, lowers it by 6, its section following over 2400
frames, or retires it where less than 6 would be left. It is that notch's part of the advance (log 3): the advance after it
leaves the notch alone, and the two together are the advance. -/
def Obligations.NotchesAge : Prop :=
  (∀ s : State, s.NotchesOk →
    (s.service.state = .standby → exec .agingAdvance s = .next s) ∧
    (s.secondCount < 48000 → exec .agingAdvance s = .next s) ∧
    (s.service.state ≠ .standby → 48000 ≤ s.secondCount → ∃ t, exec .agingAdvance s = .next t ∧
      t = { s with secondCount := 0, stepped := [], notches := t.notches, sections := t.sections } ∧
      ∀ src,
        let left (n : Notch) : Option Notch :=
          if (src, n.band) ∈ s.stepped then some n else n.aged s.timing.notchDecay
        vget t.notches src = (vget s.notches src).filterMap left ∧
        ∀ i, vget (vget t.sections src) i = (vget (vget s.sections src) i).map fun sec =>
          match (vget s.notches src).find? fun n => n.band == sec.band && !sec.outgoing with
          | none => sec
          | some n =>
            match left n with
            | none => { sec with outgoing := true, cut := ⟨sec.cut.value, 0, some 2400⟩ }
            | some m =>
              if m.depth = n.depth then sec else { sec with cut := ⟨sec.cut.value, m.depth, some 2400⟩ })) ∧
  (∀ (s : State) (src : Source) (n : Notch), n ∈ vget s.notches src → s.NotchesOk →
    n.kind = .dynamic → (src, n.band) ∉ s.stepped → s.timing.notchDecay ≤ n.quietTime + 1 →
    s.service.state ≠ .standby → 48000 ≤ s.secondCount →
    let table := vget s.notches src
    (n.depth < 12 → exec (.agingStep src n.band) s = .next { s with
      stepped := (src, n.band) :: s.stepped
      notches := vset s.notches src (table.filter fun m => m.band ≠ n.band)
      sections := vset s.sections src (retireSection (vget s.sections src) n.band) }) ∧
    (12 ≤ n.depth → exec (.agingStep src n.band) s = .next { s with
      stepped := (src, n.band) :: s.stepped
      notches := vset s.notches src
        (table.map fun m : Notch => if m.band = n.band then { n with depth := n.depth - 6, quietTime := 0 } else m)
      sections := vset s.sections src (retuneSection (vget s.sections src) n.band (n.depth - 6)) })) ∧
  (∀ (s : State) (src : Source) (band : Band), s.NotchesOk →
    (s.service.state = .standby ∨ s.secondCount < 48000 ∨
      (∀ n ∈ vget s.notches src, n.band = band →
        n.kind = .fixed ∨ (src, band) ∈ s.stepped ∨ n.quietTime + 1 < s.timing.notchDecay) →
      exec (.agingStep src band) s = .next s) ∧
    ∃ t, exec (.agingStep src band) s = .next t ∧ exec .agingAdvance t = exec .agingAdvance s)

/-- R109: ADD_NOTCH: its checks in their order; a FIXED notch of the clamped depth is placed, with the weakest DYNAMIC notch
evicted from a full table. -/
def Obligations.AddNotchEffects : Prop :=
  ∀ (a b d : Byte) (s : State), s.takesRequest = true → s.NotchesOk →
    (16 ≤ a.toNat ∨ 208 ≤ b.toNat → exec (.addNotch a b d) s = .next (s.respond .outOfRange 0x39 [])) ∧
    ∀ (src : Source) (band : Band), a.toNat = src.val → b.toNat = band.val →
      let table := vget s.notches src
      let depth := max 6 (min 36 d.toNat)
      let new : Notch := ⟨band, depth, .fixed, 0, 0⟩
      ((∃ n ∈ table, bandsMatch band n.band) → exec (.addNotch a b d) s = .next (s.respond .tooClose 0x39 [])) ∧
      ((∀ n ∈ table, ¬ bandsMatch band n.band) →
        (table.length = 8 → (∀ n ∈ table, n.kind = .fixed) →
          exec (.addNotch a b d) s = .next (s.respond .tableFull 0x39 [])) ∧
        (table.length < 8 → ∃ t : State, exec (.addNotch a b d) s = .next (t.respond .ok 0x39 []) ∧
          t = { s with
            notches := t.notches
            sections := vset s.sections src (placeSection (vget s.sections src) band depth) } ∧
          (∀ other, other ≠ src → vget t.notches other = vget s.notches other) ∧
          ∀ m, m ∈ vget t.notches src ↔ m = new ∨ m ∈ table) ∧
        (table.length = 8 → ∀ w, IsWeakest table w →
          ∃ t : State, exec (.addNotch a b d) s = .next (t.respond .ok 0x39 []) ∧
          t = { s with
            notches := t.notches
            sections := vset s.sections src
              (placeSection (retireSection (vget s.sections src) w.band) band depth) } ∧
          (∀ other, other ≠ src → vget t.notches other = vget s.notches other) ∧
          ∀ m, m ∈ vget t.notches src ↔ m = new ∨ (m ∈ table ∧ m ≠ w)))

/-- R110, R111, R112: EDIT_NOTCH rewrites the notch at exactly its band, RETIRE_NOTCH removes it, and CLEAR_DYNAMIC removes
every DYNAMIC notch; the sections follow R114. -/
def Obligations.NotchEdits : Prop :=
  ∀ (a b d k : Byte) (s : State), s.takesRequest = true → s.NotchesOk →
    (16 ≤ a.toNat ∨ 208 ≤ b.toNat ∨ 2 ≤ k.toNat →
      exec (.editNotch a b d k) s = .next (s.respond .outOfRange 0x3A [])) ∧
    (16 ≤ a.toNat ∨ 208 ≤ b.toNat → exec (.retireNotch a b) s = .next (s.respond .outOfRange 0x3B [])) ∧
    (16 ≤ a.toNat → exec (.clearDynamic a) s = .next (s.respond .outOfRange 0x3C [])) ∧
    ∀ (src : Source), a.toNat = src.val →
      let table := vget s.notches src
      let secs := vget s.sections src
      (∃ t : State, exec (.clearDynamic a) s = .next (t.respond .ok 0x3C []) ∧
        t = { s with
          notches := vset s.notches src (table.filter fun n => n.kind = .fixed)
          sections := t.sections } ∧
        (∀ other, other ≠ src → vget t.sections other = vget s.sections other) ∧
        ∀ i, vget (vget t.sections src) i = (vget secs i).map fun sec =>
          if sec.outgoing = false ∧ ∃ n ∈ table, n.kind = .dynamic ∧ n.band = sec.band then
            { sec with outgoing := true, cut := ⟨sec.cut.value, 0, some 2400⟩ } else sec) ∧
      ∀ band : Band, b.toNat = band.val →
        ((∀ n ∈ table, n.band ≠ band) →
          exec (.retireNotch a b) s = .next (s.respond .absent 0x3B []) ∧
          ∀ kind : NotchKind, k.toNat = kind.code →
            exec (.editNotch a b d k) s = .next (s.respond .absent 0x3A [])) ∧
        ∀ n ∈ table, n.band = band →
          exec (.retireNotch a b) s = .next ({ s with
            notches := vset s.notches src (table.filter fun m => m.band ≠ band)
            sections := vset s.sections src (retireSection secs band) }.respond .ok 0x3B []) ∧
          ∀ kind : NotchKind, k.toNat = kind.code →
            let depth := max 6 (min 36 d.toNat)
            exec (.editNotch a b d k) s = .next ({ s with
              notches := vset s.notches src (table.map fun m : Notch =>
                if m.band = band then
                  { m with depth := depth, kind := kind, quietTime := if m.kind = kind then m.quietTime else 0 }
                else m)
              sections := if n.depth = depth then s.sections
                else vset s.sections src (retuneSection secs band depth) }.respond .ok 0x3A [])

/-! ### The Cue Inputs -/

/-- R132, R168, R128: SET_CUE writes the edge and the action with the parameters the action uses, a level clamped; an
identifier or code out of its set among those is refused, and the other parameters are ignored. A pin sample restarts the
held time of a line whose pin has changed and lengthens it by 1 ms up to 100 elsewhere; a change of the sample before that
still waits is counted first, the lines ascending (log 2, log 19). -/
def Obligations.CuesSetAndSampled : Prop :=
  (∀ (p : CuePayload) (s : State), s.takesRequest = true →
    (8 ≤ p.line.toNat ∨ 4 ≤ p.edge.toNat ∨ 6 ≤ p.action.toNat ∨
      (1 ≤ p.action.toNat ∧ p.action.toNat ≤ 4 ∧ 16 ≤ p.source.toNat) ∨
      (1 ≤ p.action.toNat ∧ p.action.toNat ≤ 2 ∧ 32 ≤ p.station.toNat) ∨
      (p.action.toNat = 1 ∧ 8 ≤ p.service.toNat) ∨ (p.action.toNat = 4 ∧ 3 ≤ p.gateMode.toNat) →
      exec (.setCue p) s = .next (s.respond .outOfRange 0x40 [])) ∧
    ∀ (l : Line) (e : Edge) (act : CueAction), p.line.toNat = l.val →
      ((p.edge = 0 ∧ e = .none) ∨ (p.edge = 1 ∧ e = .rising) ∨ (p.edge = 2 ∧ e = .falling) ∨ (p.edge = 3 ∧ e = .both)) →
      ((p.action = 0 ∧ act = .none) ∨
        (∃ (src : Source) (st : StationId) (sv : Service), p.action = 1 ∧ p.source.toNat = src.val ∧
          p.station.toNat = st.val ∧ p.service.toNat = sv.val ∧
          act = .place src st sv (max (-40) (min 24 p.level.toInt))) ∨
        (∃ (src : Source) (st : StationId), p.action = 2 ∧ p.source.toNat = src.val ∧ p.station.toNat = st.val ∧
          act = .move src st) ∨
        (∃ src : Source, p.action = 3 ∧ p.source.toNat = src.val ∧ act = .retire src) ∨
        (∃ (src : Source) (m : GateMode), p.action = 4 ∧ p.source.toNat = src.val ∧ p.gateMode.toNat = m.code ∧
          act = .gateMode src m) ∨
        (p.action = 5 ∧ act = .wake)) →
      exec (.setCue p) s = .next ({ s with
        cues := vset s.cues l { vget s.cues l with edge := e, action := act } }.respond .ok 0x40 [])) ∧
  (∀ (s : State) (pins : Byte), ∃ u, runCommands (allLines.map .debouncedChange) s = .next u ∧
    ((∀ l, (vget s.cues l).raw = (vget s.cues l).debounced ∨ (vget s.cues l).held < s.timing.debounce) → u = s) ∧
    exec (.cuePinSample pins) s = .next { u with
      cues := vgen fun l =>
        let c := vget u.cues l
        if pins.getLsbD l.val = c.raw then { c with held := min 100 (c.held + 1) }
        else { c with raw := pins.getLsbD l.val, held := 0 } })

/-- R129, R130, R131, R37: a debounced change. One that does not match the edge alters the debounced level alone. One that
matches carries out the stored action as the request of the same name: the part is as that request leaves it, but for the
response, which is not formed; the result is kept, the delta flag set and CUE raised, and for a result other than OK the
refusal mark set and CUE_REFUSED raised. The transaction in progress, ended or not, has no part in it. A raw level that has
not held for the debounce time counts nothing, and in the quiet phase of a warm restart no line does (R167; log 25). -/
def Obligations.CueActsAsTheRequest : Prop :=
  ∀ (s : State) (l : Line),
    let c := vget s.cues l
    (c.raw = c.debounced ∨ c.held < s.timing.debounce ∨ s.service.restart ≠ none →
      exec (.debouncedChange l) s = .next s) ∧
    (c.raw ≠ c.debounced → s.timing.debounce ≤ c.held → s.service.restart = none →
    ((c.edge = .none ∨ (c.edge = .rising ∧ c.raw = false) ∨ (c.edge = .falling ∧ c.raw = true)) →
      exec (.debouncedChange l) s = .next { s with cues := vset s.cues l { c with debounced := c.raw } }) ∧
    ((c.edge = .both ∨ (c.edge = .rising ∧ c.raw = true) ∨ (c.edge = .falling ∧ c.raw = false)) →
      ∀ request : Instr,
        (match c.action with
          | .none => request = .nop
          | .place src st sv level => -40 ≤ level ∧ level ≤ 24 ∧ request =
            .place (BitVec.ofNat 8 src.val) (BitVec.ofNat 8 st.val) (BitVec.ofNat 8 sv.val) (BitVec.ofInt 16 level)
          | .move src st => request = .move (BitVec.ofNat 8 src.val) (BitVec.ofNat 8 st.val)
          | .retire src => request = .retire (BitVec.ofNat 8 src.val)
          | .gateMode src m => request = .setGateMode (BitVec.ofNat 8 src.val) (BitVec.ofNat 8 m.code)
          | .wake => request = .wake) →
        ∃ t u, exec request { s with link := { s.link with transaction := none } } = .next u ∧
          exec (.debouncedChange l) s = .next t ∧
          t = { u with
            cues := vset s.cues l { c with
              debounced := c.raw
              delta := true
              lastResult := u.link.response.result
              refused := c.refused || decide (u.link.response.result ≠ .ok) }
            link := { s.link with
              flags := u.link.flags ||| EventFlag.cue.bit |||
                (if u.link.response.result = .ok then 0 else EventFlag.cueRefused.bit) } }))

/-! ### The Clock Unit -/

/-- R137, R140, R139, R143: the clock pins are outputs in INTERNAL alone. SET_CLOCK by the table of R140, held as the
pending selection while a switch is in flight; the change of a switch, once its down phase has brought the gain to 0, takes
the new clock state, raises CLOCK and starts the up phase, or completes the switch where the state is AWAITING_EXTERNAL; a
switch completes once the gain is 1 and carries out its pending selection as if taken then. -/
def Obligations.ClockSwitches : Prop :=
  ∀ s : State,
    let c := s.clock
    (s.takesRequest = true → ∀ b : Byte,
      (2 ≤ b.toNat → exec (.setClock b) s = .next (s.respond .outOfRange 0x08 [])) ∧
      ∀ sel : ClockSelection, b.toNat = sel.code →
        (c.flight ≠ none → exec (.setClock b) s =
          .next ({ s with clock := { c with pendingSelection := some sel } }.respond .ok 0x08 [])) ∧
        (c.flight = none → sel = .external → c.state = .internal → exec (.setClock b) s =
          .next ({ s with clock := { c with
            selection := .external, flight := some (.down .awaitingExternal) } }.respond .ok 0x08 [])) ∧
        (c.flight = none → sel = .internal → c.state ≠ .internal → exec (.setClock b) s =
          .next ({ s with clock := { c with
            selection := .internal, flight := some (.down .internal) } }.respond .ok 0x08 [])) ∧
        (c.flight = none → (sel = .internal ↔ c.state = .internal) →
          exec (.setClock b) s = .next (s.respond .ok 0x08 []))) ∧
    (s.drivesClockPins = true ↔ c.state = .internal) ∧
    (c.gain ≠ 0 → ∀ target, c.flight = some (.down target) → exec .switchChange s = .next s) ∧
    (c.gain ≠ 1 → exec .switchComplete s = .next s) ∧
    (c.flight = some (.down .internal) → c.gain = 0 → exec .switchChange s = .next { s with
      clock := { c with
        state := .internal, presence := 0, missed := 0, frameStarted := false, gain := 0, flight := some .up }
      link := { s.link with flags := s.link.flags ||| EventFlag.clock.bit } }) ∧
    (c.flight = some (.down .awaitingExternal) → c.gain = 0 →
      let arrived : ClockUnit := { c with
        state := .awaitingExternal, presence := 0, missed := 0, frameStarted := false, gain := 0, flight := none
        pendingSelection := none }
      exec .switchChange s = .next { s with
        clock := if c.pendingSelection = some .internal
          then { arrived with selection := .internal, flight := some (.down .internal) } else arrived
        link := { s.link with flags := s.link.flags ||| EventFlag.clock.bit } }) ∧
    (c.flight = some .up → c.gain = 1 →
      let done : ClockUnit := { c with gain := 1, flight := none, pendingSelection := none }
      exec .switchComplete s = .next { s with
        clock :=
          if c.pendingSelection = some .external ∧ c.state = .internal
            then { done with selection := .external, flight := some (.down .awaitingExternal) }
          else if c.pendingSelection = some .internal ∧ c.state ≠ .internal
            then { done with selection := .internal, flight := some (.down .internal) }
          else done })

/-- R138, R141, R142: how arrivals and missed frames count in AWAITING_EXTERNAL with EXTERNAL selected and in
LOCKED_EXTERNAL; the lock at 24 000 good arrivals, its change and its abandoning, which carries out
a pending selection (R140); the loss of the clock, at gain 0 (log 13). -/
def Obligations.LockAndLoss : Prop :=
  ∀ s : State,
    let c := s.clock
    let raised : Link := { s.link with flags := s.link.flags ||| EventFlag.clock.bit }
    let lock : ClockUnit := { c with presence := 24000, flight := some (.down .lockedExternal) }
    let locked : ClockUnit := { c with
      state := .lockedExternal, presence := 0, missed := 0, frameStarted := true, flight := some .up }
    let idle : ClockUnit := { c with presence := 0, flight := none, pendingSelection := none }
    let abandoned : ClockUnit :=
      if c.pendingSelection = some .internal
      then { idle with selection := .internal, flight := some (.down .internal) } else idle
    let good (interval : Rat) : Prop := 99 / 100 ≤ interval ∧ interval ≤ 101 / 100
    (c.state = .internal → (∀ x, exec (.frameSyncArrival x) s = .next s) ∧ exec .missedFrame s = .next s) ∧
    (c.state = .awaitingExternal → c.selection = .external → c.flight = none →
      exec .presenceCountFull s = .next { s with clock := lock } ∧
      (∀ x, good x → c.presence < 23999 →
        exec (.frameSyncArrival x) s = .next { s with clock := { c with presence := c.presence + 1 } }) ∧
      (∀ x, good x → c.presence = 23999 → exec (.frameSyncArrival x) s = .next { s with clock := lock }) ∧
      (∀ x, ¬ good x → exec (.frameSyncArrival x) s = .next { s with clock := { c with presence := 0 } }) ∧
      exec .missedFrame s = .next { s with clock := { c with presence := 0 } }) ∧
    (c.state = .awaitingExternal → c.selection = .external → c.flight = some (.down .lockedExternal) →
      exec .lockChange s = .next { s with clock := locked, link := raised } ∧
      (∀ x, good x → exec (.frameSyncArrival x) s = .next { s with clock := locked, link := raised }) ∧
      (∀ x, ¬ good x → exec (.frameSyncArrival x) s = .next { s with clock := abandoned }) ∧
      exec .missedFrame s = .next { s with clock := abandoned }) ∧
    (c.state = .lockedExternal →
      (∀ x, 99 / 100 ≤ x →
        exec (.frameSyncArrival x) s = .next { s with clock := { c with missed := 0, frameStarted := true } }) ∧
      (∀ x, x < 99 / 100 → exec (.frameSyncArrival x) s = .next s) ∧
      (c.missed < 3 → exec .missedFrame s = .next { s with clock := { c with missed := c.missed + 1 } }) ∧
      (c.missed = 3 → exec .missedFrame s = exec .clockLoss s) ∧
      (c.flight ≠ some (.down .internal) →
        let lost : ClockUnit := { c with
          state := .awaitingExternal, presence := 0, missed := 0, frameStarted := false, gain := 0, flight := none
          pendingSelection := none }
        exec .clockLoss s = .next { s with
          clock := if c.pendingSelection = some .internal
            then { lost with selection := .internal, flight := some (.down .internal) } else lost
          link := raised }) ∧
      (c.flight = some (.down .internal) →
        exec .clockLoss s = .next { s with
          clock := { c with
            state := .internal, presence := 0, missed := 0, frameStarted := false, gain := 0, flight := some .up }
          link := raised }))

/-! ### Service Control -/

/-- R162, R165, R161: STANDBY begins an entry from ACTIVE; WAKE cancels an entry, or ends standby with each gate taking up
its drive; each turns the service ramp at the value recorded, which while its completion is due is one step short of its end
(log 2), at the fade time of the moment; elsewhere neither has an effect. -/
def Obligations.StandbyAndWake : Prop :=
  ∀ s : State, s.takesRequest = true →
    let turned (state : ServiceState) (step : Rat) : State :=
      { s with service := { s.service with state := state, ramp := ⟨s.service.ramp.value, step, false⟩ } }
    let step : Rat := 1 / (48 * s.timing.fadeTime)
    (s.service.state = .active →
      exec .standby s = .next ((turned .enteringStandby (-step)).respond .ok 0x05 []) ∧
      exec .wake s = .next (s.respond .ok 0x06 [])) ∧
    (s.service.state ≠ .active → exec .standby s = .next (s.respond .ok 0x05 [])) ∧
    (s.service.state = .enteringStandby → exec .wake s = .next ((turned .active step).respond .ok 0x06 [])) ∧
    (s.service.state = .standby → ∃ t, exec .wake s = .next t ∧
      FeedsBecome s { (turned .active step).respond .ok 0x06 [] with
        channels := t.channels, detectors := t.detectors } s.feed t ∧
      ∀ src : Source,
        let gate :=
          if s.isPlaced src then (vget s.sources src).driven (s.gate src)
          else (vget s.sources src).forcedShut (s.gate src)
        vget t.channels src = { vget s.channels src with gate := gate } ∧
        vget t.detectors src = if gate.counted then vget s.detectors src else ⟨0, none, false, []⟩)

/-- R163: the completion of standby entry when its ramp reaches 0, and not before, one event: STANDBY, every glide ended at
its pending or target tap, FADING_IN feeds STEADY, FADING_OUT feeds released with the RETIRING placements they leave empty,
gates CLOSED, histories silent, detectors stopped; the queue, the levels and the second count stay. -/
def Obligations.EntryCompletes : Prop :=
  ∀ s : State, s.service.state = .enteringStandby → s.service.restart = none →
    (s.service.ramp.due = false → exec .standbyEntryComplete s = .next s) ∧
    (s.service.ramp.due = true →
    let left (k : FeedKey) : Option Feed :=
      (s.feed k).bind fun f =>
        if f.state.isFadingOut then none
        else some { f with
          active := match f.glide with
            | some g => some (g.pending.getD g.target)
            | none => f.active
          glide := none
          state := match f.state with
            | .fadingIn _ => .steady
            | st => st }
    ∃ t, exec .standbyEntryComplete s = .next t ∧
      FeedsBecome s { s with
        service := { s.service with state := .standby, ramp := ⟨0, 0, false⟩ }
        placements := vgen fun src =>
          if (s.placement src).any (fun p => p.state == .retiring) ∧ (∀ z, left (src, z) = none) then none
          else s.placement src
        channels := vgen fun src =>
          { vget s.channels src with
            gate := .closed, history := ⟨[], (vget s.channels src).history.writePos⟩ }
        detectors := vgen fun _ => ⟨0, none, false, []⟩ } left t)

/-- R167, R151: the trigger of a warm restart, by RESTART or the fall of the reset pin: the service ramp falls by 1/240 a
frame from the value recorded (of a ramp that is due, one step short of its end, log 2), a transaction in progress shifts
out 0x00 bytes and its request is ended; a fall in a restart lengthens it and begins no second one, and the release of a low
pin ends no phase by itself (log 21). -/
def Obligations.RestartTriggered : Prop :=
  ∀ s : State,
    let quiet (cause : RestartCause) (low : Bool) : ServiceControl :=
      { s.service with
        restart := some cause, resetPinLow := low
        ramp := if s.service.ramp.value ≤ 0 then ⟨0, 0, false⟩ else ⟨s.service.ramp.value, -(1 / 240), false⟩ }
    (s.takesRequest = true → exec .restart s = .next { s with
      service := quiet .restartRequest s.service.resetPinLow
      link := { s.link with receiveBuffer := [], transaction := none } }) ∧
    (s.service.restart = none → s.service.resetPinLow = false → exec .resetPin s = .next { s with
      service := quiet .resetPin true
      link := { s.link with
        receiveBuffer := []
        transaction := s.link.transaction.map fun _ => ⟨[], true⟩ } }) ∧
    (s.service.restart ≠ none → s.service.resetPinLow = false →
      exec .resetPin s = .next { s with service := { s.service with resetPinLow := true } }) ∧
    (s.service.resetPinLow = true →
      exec .resetPin s = .next { s with service := { s.service with resetPinLow := false } })

/-- R167, R44, R98, R116, R135, R145, R147, R160: once the quiet phase has brought the service ramp to 0 and the reset pin
is high, and not before, the clearing keeps what the table of R167 keeps, sets the rest afresh, and rebuilds a WAITING feed
for each zone of each ACTIVE placement's desired set, queued by source and then by zone; each gate then takes up its drive
from CLOSED. The i-th notch of a table takes section i, the model's choice (log 18). -/
def Obligations.ClearingRebuilds : Prop :=
  (∀ (s : State) (pins : Byte),
    s.service.restart = none ∨ s.service.resetPinLow = true ∨ (s.service.ramp.due = false ∧ s.service.ramp.value ≠ 0) →
    exec (.clearing pins) s = .next s) ∧
  ∀ (s : State) (pins : Byte) (cause : RestartCause), s.service.restart = some cause → s.service.resetPinLow = false →
    (s.service.ramp.due = true ∧ s.service.ramp.step < 0) ∨ (s.service.ramp.due = false ∧ s.service.ramp.value = 0) →
    exec (.clearing pins) s = .next { s with
      placements := vgen fun src =>
        (s.placement src).bind fun p => if p.state = .active then some p else none
      feeds := vgen fun src => vgen fun z =>
        if s.wants (src, z) then
          some { state := .waiting, active := none, glide := none, baseGain := -192
                 limited := false, smoothing := none }
        else none
      queue := allSources.flatMap fun src => zonesOf src fun z => s.wants (src, z)
      channels := vgen fun src => {
        trimFactor := ⟨factorOf (vget s.sources src).trim, factorOf (vget s.sources src).trim, none⟩
        gate :=
          if s.service.state = .active ∧ s.isPlaced src = true ∧ (vget s.sources src).gateMode = .forcedOpen
          then (vget s.sources src).opensFrom 0 else .closed
        level := -240
        blockEnergy := 0
        history := ⟨[], (vget s.channels src).history.writePos⟩ }
      blockCount := 0
      detectors := vgen fun _ => ⟨0, none, false, []⟩
      sections := vgen fun src => vgen fun i =>
        ((vget s.notches src)[i.val]?).map fun n => ⟨n.band, false, ⟨n.depth, n.depth, none⟩, ⟨0, 0, 0, 0⟩⟩
      windowCount := 0
      secondCount := 0
      stepped := []
      mixers := vgen fun z => { vget s.mixers z with
        mute := ⟨if (vget s.zones z).mute then 0 else 1, 0, false⟩, peak := -240, clip := false }
      cues := vgen fun l => { vget s.cues l with
        raw := pins.getLsbD l.val, held := 0, debounced := pins.getLsbD l.val, delta := false, refused := false }
      link := {
        receiveBuffer := []
        response := ⟨.ok, 0x00, []⟩
        flags := 0b0000010
        mask := s.link.mask
        restartCause := cause
        transaction := s.link.transaction.map fun _ => ⟨[], true⟩ }
      service := if s.service.state = .active then ⟨.active, ⟨0, 1 / 240, false⟩, none, false⟩
        else ⟨.standby, ⟨0, 0, false⟩, none, false⟩ }

/-- R166 and the power-on columns of R1, R7, R13, R14, R15, R43, R81, R98, R116, R135, R137, R145, R147, R160, R161: every
record at its power-on value, each Cue Line at its pin's level. What waits in the model's queue stays. -/
def Obligations.PowerOnResets : Prop :=
  ∀ (s : State) (pins : Byte), ∃ t, exec (.powerOnReset pins) s = .next t ∧ t.pending = s.pending ∧
    (∀ st, vget t.stations st = ⟨false, ⟨0, 0, 0⟩, 0⟩) ∧
    (∀ z, vget t.zones z = ⟨⟨0, 0, 0⟩, ⟨0, 0, 0⟩, 0, -12, 20, 0, true⟩) ∧
    (∀ a, vget t.areas a = .joined) ∧
    t.timing = ⟨80, 300, .linear, 120, 5, 20⟩ ∧
    t.reportedTemperature = 200 ∧ t.temperatureInUse = 200 ∧
    (∀ src, t.placement src = none) ∧ (∀ k, t.feed k = none) ∧ t.queue = [] ∧
    (∀ src, vget t.sources src = ⟨0, .auto, -80, -90, 500, 5, 400, false, 36, 6⟩) ∧
    (∀ src, (vget t.channels src).trimFactor = ⟨1, 1, none⟩ ∧ (vget t.channels src).gate = .closed ∧
      (vget t.channels src).level = -240 ∧ ∀ tap, (vget t.channels src).history.tap tap = 0) ∧
    t.blockCount = 0 ∧ t.windowCount = 0 ∧ t.secondCount = 0 ∧ t.stepped = [] ∧
    (∀ src, vget t.detectors src = ⟨0, none, false, []⟩ ∧ vget t.notches src = [] ∧
      ∀ i, vget (vget t.sections src) i = none) ∧
    (∀ z, (vget t.mixers z).mute = ⟨0, 0, false⟩ ∧ (vget t.mixers z).peak = -240 ∧ (vget t.mixers z).clip = false) ∧
    (∀ l, vget t.cues l = ⟨.none, .none, .ok, pins.getLsbD l.val, 0, pins.getLsbD l.val, false, false⟩) ∧
    t.clock.selection = .internal ∧ t.clock.state = .internal ∧ t.clock.pendingSelection = none ∧
    t.clock.flight = none ∧ t.clock.gain = 1 ∧ t.clock.presence = 0 ∧
    t.link = ⟨[], ⟨.ok, 0x00, []⟩, 0b0000010, 0, .powerOn, none⟩ ∧
    t.service.state = .active ∧ t.service.ramp = ⟨1, 0, false⟩ ∧ t.service.restart = none ∧ t.settled = true

/-! ### The audio frame -/

/-- What a frame takes before it runs: the commands of every event that frames bring about, in one fixed order (log 20), each of
which acts only where its work has come to its end (log 2). With no switch phase, ramp, glide, movement, block, window or
second at its end, that is the part as it stands. -/
def Obligations.DueEventsTaken : Prop :=
  ∀ s : State, runCommands dueCommands s = .next s.takeDue ∧ (s.NothingDue → s.takeDue = s)

/-- R64, R70, R84, R85, R86, R96, R99, R107, R114, R136, R139, R144, R145, R161: one frame, on the part as the events already
due leave it (`takeDue`): each ramp, glide and movement advances by one frame, and the counts by one. Each channel's sample, 0 in
AWAITING_EXTERNAL, is multiplied by the trim factor and saturated, passes the notch sections in force in ascending band order
and is saturated again; then it adds its square to the block, joins the window of a detector that analyses it (log 30), and
its product with the gate gain enters the history. A product that is no whole sample may be rounded either way (log 7); a
section is a filter with a memory (log 8). The outputs, meters and ports are those of R146, the serial of the free values
moves on (log 26), and nothing else changes. In LOCKED_EXTERNAL no frame runs that no arrival has started (R138). -/
def Obligations.FrameAdvances : Prop :=
  ∀ (s : State) (input : Vector Sample 16),
    (s.clock.state = .lockedExternal → s.clock.frameStarted = false → exec (.audioFrame input) s = .next s) ∧
    (s.clock.state ≠ .lockedExternal ∨ s.clock.frameStarted = true → ∀ d : State, s.takeDue = d →
      ∃ (t : State) (trimmed sample gated : Source → Int), exec (.audioFrame input) s = .next t ∧
        t = { d with
          feeds := t.feeds, channels := t.channels, sections := t.sections, detectors := t.detectors
          mixers := t.mixers, portA := t.portA, portB := t.portB
          blockCount := d.blockCount + 1
          windowCount := d.windowCount + 1
          secondCount := if d.service.state = .standby then d.secondCount else d.secondCount + 1
          freeSerial := d.freeSerial + 1
          clock := { d.clock with
            frameStarted := false
            gain := match d.clock.flight with
              | some (.down _) => max 0 (d.clock.gain - 1 / 240)
              | some .up => min 1 (d.clock.gain + 1 / 240)
              | none => d.clock.gain }
          service := { d.service with ramp := d.service.ramp.advance } } ∧
        (∀ k, t.feed k = (d.feed k).map fun f => { f with
          state := match f.state with
            | .fadingIn r => .fadingIn r.advance
            | .fadingOut r => .fadingOut r.advance
            | st => st
          glide := f.glide.map fun g => { g with position := min g.length (g.position + 1) }
          smoothing := f.smoothing.map fun sm => { sm with factor := sm.factor.advance } }) ∧
        (∀ src, vget t.channels src = { vget d.channels src with
          trimFactor := (vget d.channels src).trimFactor.advance
          gate := match d.gate src with
            | .opening r _ => .opening r.advance false
            | .closing r => .closing r.advance
            | g => g
          blockEnergy := (vget d.channels src).blockEnergy + (sample src).natAbs ^ 2
          history := (vget t.channels src).history }) ∧
        (∀ src,
          let before := vget d.detectors src
          let analysing : Bool :=
            if d.windowCount = 0 then
              (vget d.sources src).detectorEnable && (d.gate src).counted && decide (d.service.state ≠ .standby)
            else before.analysing
          vget t.detectors src = { before with
            analysing := analysing
            window :=
              if analysing then sample src :: (if d.windowCount = 0 then [] else before.window) else [] }) ∧
        (∀ z, (vget t.mixers z).mute = (vget d.mixers z).mute.advance) ∧
        (∀ src,
          let port : Int := if d.clock.state = .awaitingExternal then 0 else (vget input src).toInt
          IsSampleOf (port * (vget d.channels src).trimFactor.advance.value) (trimmed src)) ∧
        (∀ src,
          let secs : Vector (Option NotchSection) 16 := vgen fun i =>
            (vget (vget d.sections src) i).map fun sec => { sec with cut := sec.cut.advance }
          ∃ chain, IsChain secs chain ∧ IsSampleOf (throughSections secs chain (trimmed src)) (sample src) ∧
            (∀ i, i ∉ chain → vget (vget t.sections src) i = vget secs i) ∧
            ∀ before i after sec, chain = before ++ i :: after → vget secs i = some sec →
              let x := throughSections secs before (trimmed src)
              let y := filterOutput (sectionFilter sec.band sec.cut.value) sec.memory x
              vget (vget t.sections src) i = some { sec with memory := ⟨x, sec.memory.x1, y, sec.memory.y1⟩ }) ∧
        (∀ src,
          let gain : Rat := match d.gate src with
            | .closed => 0
            | .opening r _ => r.advance.shown
            | .opened => 1
            | .hold _ => 1
            | .closing r => r.advance.shown
          (sample src : Rat) * gain - 1 < gated src ∧ (gated src : Rat) < sample src * gain + 1) ∧
        (d.HistoriesOk → ∀ src,
          (∀ n, n < 32767 → (vget t.channels src).history.tap (n + 1) = (vget d.channels src).history.tap n) ∧
          (vget t.channels src).history.tap 0 = gated src))

/-- R70, R86, R161, R84, R114, R144: a ramp moves by its step in a frame and stands at its end, where its completion is due, in
the frame whose step would reach or pass that end; a movement runs in a straight line to its target; a feed's applied
factor is set at once at its first derivation, and moves over 960 frames from the value reached when its effective gain
changes. -/
def Obligations.RampsAndMovements : Prop :=
  ((∀ r : Ramp, r.due = false →
    (0 < r.step → r.value + r.step < 1 → r.advance = { r with value := r.value + r.step } ∧
      r.advance.shown = r.value + r.step) ∧
    (0 < r.step → 1 ≤ r.value + r.step → r.advance.due = true ∧ r.advance.shown = 1) ∧
    (r.step < 0 → 0 < r.value + r.step → r.advance = { r with value := r.value + r.step } ∧
      r.advance.shown = r.value + r.step) ∧
    (r.step < 0 → r.value + r.step ≤ 0 → r.advance.due = true ∧ r.advance.shown = 0)) ∧
  ∀ (frames k : Nat) (a b : Rat), k ≤ frames → 0 < frames →
    Slide.advance^[k] ⟨a, b, some frames⟩ = ⟨a + (b - a) * k / frames, b, some (frames - k)⟩) ∧
  ((∀ (f : Feed) (g : Int), f.state ≠ .waiting →
    (f.smoothing = none → f.smoothed g = { f with smoothing := some ⟨g, ⟨gainFactor g, gainFactor g, none⟩⟩ }) ∧
    ∀ sm, f.smoothing = some sm →
      (sm.effective = g → f.smoothed g = f) ∧
      (sm.effective ≠ g → f.smoothed g =
        { f with smoothing := some ⟨g, ⟨sm.factor.value, gainFactor g, some 960⟩⟩ })))

/-- R63, R74, R144, R146, R147, R136: the output of each zone in a frame that runs: the sum of the contributions of every one
of its feeds that is not WAITING, times the mute gain, the service ramp gain and the switch ramp gain, saturated at full
scale, metered, and placed in its slot where the ports deliver. A product that is no whole sample may be rounded either way (log 7). -/
def Obligations.FrameOutputs : Prop :=
  ∀ (s d : State) (input : Vector Sample 16), s.clock.state ≠ .lockedExternal ∨ s.clock.frameStarted = true →
    s.takeDue = d → ∃ t, exec (.audioFrame input) s = .next t ∧
      (∀ z : Zone,
        let sum : Rat := (allSources.map fun src =>
          match t.feed (src, z) with
          | none => 0
          | some f =>
            let h := (vget t.channels src).history
            let taps : Rat :=
              match f.active, f.glide with
              | none, _ => 0
              | some a, none => h.tap a
              | some a, some g => (1 - (g.position : Rat) / g.length) * h.tap a + (g.position : Rat) / g.length * h.tap g.target
            let factor : Rat := match f.smoothing with
              | some sm => sm.factor.value
              | none => 0
            match f.state with
            | .waiting => 0
            | .steady => taps * factor * fadeWeight t.timing.fadeShape 1
            | .fadingIn r => taps * factor * fadeWeight t.timing.fadeShape r.shown
            | .fadingOut r => taps * factor * fadeWeight t.timing.fadeShape r.shown).sum
        let product := sum * (vget t.mixers z).mute.shown * t.service.ramp.shown * t.clock.gain
        let m := vget t.mixers z
        IsSampleOf product m.output ∧
        m.peak = max (vget d.mixers z).peak (sampleLevel m.output) ∧
        m.clip = ((vget d.mixers z).clip || decide (8388607 < product ∨ product < -8388608))) ∧
      (t.clock.state = .awaitingExternal → t.portA = none ∧ t.portB = none) ∧
      (t.clock.state ≠ .awaitingExternal →
        t.portA = some (vgen fun i : Fin 16 => (vget t.mixers ⟨i.val, by omega⟩).output) ∧
        t.portB = some (vgen fun i : Fin 16 =>
          if h : i.val < 8 then (vget t.mixers ⟨16 + i.val, by omega⟩).output else 0))

/-! ### What every step keeps -/

/-- R46, R22, R21: the queue holds no feed twice and no free or FADING_OUT feed, every WAITING feed is on it, and every feed
in use belongs to a placement. -/
def Obligations.FeedsStayInOrder : Prop :=
  ∀ s t : State, s.FeedsOk → step s = .next t → t.FeedsOk

/-- R18, R21, R26, R35: ACTIVE placements name present stations and feed exactly their desired sets, RETIRING ones hold
FADING_OUT feeds alone and at least one, and at most 128 records are in use. -/
def Obligations.PlacementsStayReconciled : Prop :=
  ∀ s t : State, s.PlacementsOk → step s = .next t → t.PlacementsOk

/-- R58, R95, R144: every feed past WAITING aims its applied factor at its base gain less its zone's attenuation. -/
def Obligations.GainsStayCurrent : Prop :=
  ∀ s t : State, s.GainsOk → step s = .next t → t.GainsOk

/-- R103, R114: every Notch Table keeps its shape, and every notch has one section of its own. -/
def Obligations.NotchTablesStayInShape : Prop :=
  ∀ s t : State, s.NotchesOk → step s = .next t → t.NotchesOk

/-- R7, R14, R15, R18, R20, R55, R70, R81, R86, R132, R145: the settings of zones, sources, timing, temperature and levels
and the derived values and glides of feeds stay in their ranges, every fade level, gate ramp and mute gain within 0 to 1,
and every history keeps its canonical form. The depths of notches are the matter of `NotchTablesStayInShape`, the switch and
service ramps that of `ClockAndServiceStayInCourse`. -/
def Obligations.ValuesStayInRange : Prop :=
  ∀ s t : State, s.RangesOk ∧ s.HistoriesOk → step s = .next t → t.RangesOk ∧ t.HistoriesOk

/-- R137 to R142, R161, R167: the Clock Unit and Service Control stay in the courses their rules describe. -/
def Obligations.ClockAndServiceStayInCourse : Prop :=
  ∀ s t : State, s.clock.inCourse ∧ s.ServiceOk → step s = .next t → t.clock.inCourse ∧ t.ServiceOk

/-- The part right after power-on reset meets every condition that each step keeps. -/
def Obligations.ResetMeetsTheConditions : Prop :=
  State.reset.NaveJoined ∧ State.reset.FeedsOk ∧ State.reset.PlacementsOk ∧ State.reset.GainsOk ∧ State.reset.NotchesOk ∧
  State.reset.RangesOk ∧ State.reset.HistoriesOk ∧ State.reset.clock.inCourse ∧ State.reset.ServiceOk
end

