-- ==== Sys2Proof/Laws/State.lean ====
section
/-! SUPPORT. What each named update of the part leaves in each field: one lemma for a field and an update, true by rfl. -/

namespace Sys2Proof.Machine

variable (s : State)

/-! ### setFeed -/

@[simp] theorem State.setFeed_stations (k : FeedKey) (f : Option Feed) : (s.setFeed k f).stations = s.stations := rfl
@[simp] theorem State.setFeed_zones (k : FeedKey) (f : Option Feed) : (s.setFeed k f).zones = s.zones := rfl
@[simp] theorem State.setFeed_areas (k : FeedKey) (f : Option Feed) : (s.setFeed k f).areas = s.areas := rfl
@[simp] theorem State.setFeed_timing (k : FeedKey) (f : Option Feed) : (s.setFeed k f).timing = s.timing := rfl
@[simp] theorem State.setFeed_reportedTemperature (k : FeedKey) (f : Option Feed) :
    (s.setFeed k f).reportedTemperature = s.reportedTemperature := rfl
@[simp] theorem State.setFeed_temperatureInUse (k : FeedKey) (f : Option Feed) :
    (s.setFeed k f).temperatureInUse = s.temperatureInUse := rfl
@[simp] theorem State.setFeed_placements (k : FeedKey) (f : Option Feed) :
    (s.setFeed k f).placements = s.placements := rfl
@[simp] theorem State.setFeed_feeds (k : FeedKey) (f : Option Feed) :
    (s.setFeed k f).feeds = vset s.feeds k.1 (vset (vget s.feeds k.1) k.2 f) := rfl
@[simp] theorem State.setFeed_queue (k : FeedKey) (f : Option Feed) : (s.setFeed k f).queue = s.queue := rfl
@[simp] theorem State.setFeed_sources (k : FeedKey) (f : Option Feed) : (s.setFeed k f).sources = s.sources := rfl
@[simp] theorem State.setFeed_channels (k : FeedKey) (f : Option Feed) : (s.setFeed k f).channels = s.channels := rfl
@[simp] theorem State.setFeed_blockCount (k : FeedKey) (f : Option Feed) :
    (s.setFeed k f).blockCount = s.blockCount := rfl
@[simp] theorem State.setFeed_detectors (k : FeedKey) (f : Option Feed) : (s.setFeed k f).detectors = s.detectors := rfl
@[simp] theorem State.setFeed_notches (k : FeedKey) (f : Option Feed) : (s.setFeed k f).notches = s.notches := rfl
@[simp] theorem State.setFeed_sections (k : FeedKey) (f : Option Feed) : (s.setFeed k f).sections = s.sections := rfl
@[simp] theorem State.setFeed_windowCount (k : FeedKey) (f : Option Feed) :
    (s.setFeed k f).windowCount = s.windowCount := rfl
@[simp] theorem State.setFeed_secondCount (k : FeedKey) (f : Option Feed) :
    (s.setFeed k f).secondCount = s.secondCount := rfl
@[simp] theorem State.setFeed_stepped (k : FeedKey) (f : Option Feed) :
    (s.setFeed k f).stepped = s.stepped := rfl
@[simp] theorem State.setFeed_mixers (k : FeedKey) (f : Option Feed) : (s.setFeed k f).mixers = s.mixers := rfl
@[simp] theorem State.setFeed_portA (k : FeedKey) (f : Option Feed) : (s.setFeed k f).portA = s.portA := rfl
@[simp] theorem State.setFeed_portB (k : FeedKey) (f : Option Feed) : (s.setFeed k f).portB = s.portB := rfl
@[simp] theorem State.setFeed_cues (k : FeedKey) (f : Option Feed) : (s.setFeed k f).cues = s.cues := rfl
@[simp] theorem State.setFeed_clock (k : FeedKey) (f : Option Feed) : (s.setFeed k f).clock = s.clock := rfl
@[simp] theorem State.setFeed_link (k : FeedKey) (f : Option Feed) : (s.setFeed k f).link = s.link := rfl
@[simp] theorem State.setFeed_service (k : FeedKey) (f : Option Feed) : (s.setFeed k f).service = s.service := rfl
@[simp] theorem State.setFeed_freeSerial (k : FeedKey) (f : Option Feed) :
    (s.setFeed k f).freeSerial = s.freeSerial := rfl
@[simp] theorem State.setFeed_pending (k : FeedKey) (f : Option Feed) : (s.setFeed k f).pending = s.pending := rfl

/-! ### setPlacement -/

@[simp] theorem State.setPlacement_stations (src : Source) (p : Option Placement) :
    (s.setPlacement src p).stations = s.stations := rfl
@[simp] theorem State.setPlacement_zones (src : Source) (p : Option Placement) :
    (s.setPlacement src p).zones = s.zones := rfl
@[simp] theorem State.setPlacement_areas (src : Source) (p : Option Placement) :
    (s.setPlacement src p).areas = s.areas := rfl
@[simp] theorem State.setPlacement_timing (src : Source) (p : Option Placement) :
    (s.setPlacement src p).timing = s.timing := rfl
@[simp] theorem State.setPlacement_reportedTemperature (src : Source) (p : Option Placement) :
    (s.setPlacement src p).reportedTemperature = s.reportedTemperature := rfl
@[simp] theorem State.setPlacement_temperatureInUse (src : Source) (p : Option Placement) :
    (s.setPlacement src p).temperatureInUse = s.temperatureInUse := rfl
@[simp] theorem State.setPlacement_placements (src : Source) (p : Option Placement) :
    (s.setPlacement src p).placements = vset s.placements src p := rfl
@[simp] theorem State.setPlacement_feeds (src : Source) (p : Option Placement) :
    (s.setPlacement src p).feeds = s.feeds := rfl
@[simp] theorem State.setPlacement_queue (src : Source) (p : Option Placement) :
    (s.setPlacement src p).queue = s.queue := rfl
@[simp] theorem State.setPlacement_sources (src : Source) (p : Option Placement) :
    (s.setPlacement src p).sources = s.sources := rfl
@[simp] theorem State.setPlacement_channels (src : Source) (p : Option Placement) :
    (s.setPlacement src p).channels = s.channels := rfl
@[simp] theorem State.setPlacement_blockCount (src : Source) (p : Option Placement) :
    (s.setPlacement src p).blockCount = s.blockCount := rfl
@[simp] theorem State.setPlacement_detectors (src : Source) (p : Option Placement) :
    (s.setPlacement src p).detectors = s.detectors := rfl
@[simp] theorem State.setPlacement_notches (src : Source) (p : Option Placement) :
    (s.setPlacement src p).notches = s.notches := rfl
@[simp] theorem State.setPlacement_sections (src : Source) (p : Option Placement) :
    (s.setPlacement src p).sections = s.sections := rfl
@[simp] theorem State.setPlacement_windowCount (src : Source) (p : Option Placement) :
    (s.setPlacement src p).windowCount = s.windowCount := rfl
@[simp] theorem State.setPlacement_secondCount (src : Source) (p : Option Placement) :
    (s.setPlacement src p).secondCount = s.secondCount := rfl
@[simp] theorem State.setPlacement_stepped (src : Source) (p : Option Placement) :
    (s.setPlacement src p).stepped = s.stepped := rfl
@[simp] theorem State.setPlacement_mixers (src : Source) (p : Option Placement) :
    (s.setPlacement src p).mixers = s.mixers := rfl
@[simp] theorem State.setPlacement_portA (src : Source) (p : Option Placement) :
    (s.setPlacement src p).portA = s.portA := rfl
@[simp] theorem State.setPlacement_portB (src : Source) (p : Option Placement) :
    (s.setPlacement src p).portB = s.portB := rfl
@[simp] theorem State.setPlacement_cues (src : Source) (p : Option Placement) :
    (s.setPlacement src p).cues = s.cues := rfl
@[simp] theorem State.setPlacement_clock (src : Source) (p : Option Placement) :
    (s.setPlacement src p).clock = s.clock := rfl
@[simp] theorem State.setPlacement_link (src : Source) (p : Option Placement) :
    (s.setPlacement src p).link = s.link := rfl
@[simp] theorem State.setPlacement_service (src : Source) (p : Option Placement) :
    (s.setPlacement src p).service = s.service := rfl
@[simp] theorem State.setPlacement_freeSerial (src : Source) (p : Option Placement) :
    (s.setPlacement src p).freeSerial = s.freeSerial := rfl
@[simp] theorem State.setPlacement_pending (src : Source) (p : Option Placement) :
    (s.setPlacement src p).pending = s.pending := rfl

/-! ### setChannel -/

@[simp] theorem State.setChannel_stations (src : Source) (c : Channel) :
    (s.setChannel src c).stations = s.stations := rfl
@[simp] theorem State.setChannel_zones (src : Source) (c : Channel) : (s.setChannel src c).zones = s.zones := rfl
@[simp] theorem State.setChannel_areas (src : Source) (c : Channel) : (s.setChannel src c).areas = s.areas := rfl
@[simp] theorem State.setChannel_timing (src : Source) (c : Channel) : (s.setChannel src c).timing = s.timing := rfl
@[simp] theorem State.setChannel_reportedTemperature (src : Source) (c : Channel) :
    (s.setChannel src c).reportedTemperature = s.reportedTemperature := rfl
@[simp] theorem State.setChannel_temperatureInUse (src : Source) (c : Channel) :
    (s.setChannel src c).temperatureInUse = s.temperatureInUse := rfl
@[simp] theorem State.setChannel_placements (src : Source) (c : Channel) :
    (s.setChannel src c).placements = s.placements := rfl
@[simp] theorem State.setChannel_feeds (src : Source) (c : Channel) : (s.setChannel src c).feeds = s.feeds := rfl
@[simp] theorem State.setChannel_queue (src : Source) (c : Channel) : (s.setChannel src c).queue = s.queue := rfl
@[simp] theorem State.setChannel_sources (src : Source) (c : Channel) : (s.setChannel src c).sources = s.sources := rfl
@[simp] theorem State.setChannel_channels (src : Source) (c : Channel) :
    (s.setChannel src c).channels = vset s.channels src c := rfl
@[simp] theorem State.setChannel_blockCount (src : Source) (c : Channel) :
    (s.setChannel src c).blockCount = s.blockCount := rfl
@[simp] theorem State.setChannel_detectors (src : Source) (c : Channel) :
    (s.setChannel src c).detectors = s.detectors := rfl
@[simp] theorem State.setChannel_notches (src : Source) (c : Channel) : (s.setChannel src c).notches = s.notches := rfl
@[simp] theorem State.setChannel_sections (src : Source) (c : Channel) :
    (s.setChannel src c).sections = s.sections := rfl
@[simp] theorem State.setChannel_windowCount (src : Source) (c : Channel) :
    (s.setChannel src c).windowCount = s.windowCount := rfl
@[simp] theorem State.setChannel_secondCount (src : Source) (c : Channel) :
    (s.setChannel src c).secondCount = s.secondCount := rfl
@[simp] theorem State.setChannel_stepped (src : Source) (c : Channel) :
    (s.setChannel src c).stepped = s.stepped := rfl
@[simp] theorem State.setChannel_mixers (src : Source) (c : Channel) : (s.setChannel src c).mixers = s.mixers := rfl
@[simp] theorem State.setChannel_portA (src : Source) (c : Channel) : (s.setChannel src c).portA = s.portA := rfl
@[simp] theorem State.setChannel_portB (src : Source) (c : Channel) : (s.setChannel src c).portB = s.portB := rfl
@[simp] theorem State.setChannel_cues (src : Source) (c : Channel) : (s.setChannel src c).cues = s.cues := rfl
@[simp] theorem State.setChannel_clock (src : Source) (c : Channel) : (s.setChannel src c).clock = s.clock := rfl
@[simp] theorem State.setChannel_link (src : Source) (c : Channel) : (s.setChannel src c).link = s.link := rfl
@[simp] theorem State.setChannel_service (src : Source) (c : Channel) : (s.setChannel src c).service = s.service := rfl
@[simp] theorem State.setChannel_freeSerial (src : Source) (c : Channel) :
    (s.setChannel src c).freeSerial = s.freeSerial := rfl
@[simp] theorem State.setChannel_pending (src : Source) (c : Channel) : (s.setChannel src c).pending = s.pending := rfl

/-! ### setDetector -/

@[simp] theorem State.setDetector_stations (src : Source) (d : Detector) :
    (s.setDetector src d).stations = s.stations := rfl
@[simp] theorem State.setDetector_zones (src : Source) (d : Detector) : (s.setDetector src d).zones = s.zones := rfl
@[simp] theorem State.setDetector_areas (src : Source) (d : Detector) : (s.setDetector src d).areas = s.areas := rfl
@[simp] theorem State.setDetector_timing (src : Source) (d : Detector) : (s.setDetector src d).timing = s.timing := rfl
@[simp] theorem State.setDetector_reportedTemperature (src : Source) (d : Detector) :
    (s.setDetector src d).reportedTemperature = s.reportedTemperature := rfl
@[simp] theorem State.setDetector_temperatureInUse (src : Source) (d : Detector) :
    (s.setDetector src d).temperatureInUse = s.temperatureInUse := rfl
@[simp] theorem State.setDetector_placements (src : Source) (d : Detector) :
    (s.setDetector src d).placements = s.placements := rfl
@[simp] theorem State.setDetector_feeds (src : Source) (d : Detector) : (s.setDetector src d).feeds = s.feeds := rfl
@[simp] theorem State.setDetector_queue (src : Source) (d : Detector) : (s.setDetector src d).queue = s.queue := rfl
@[simp] theorem State.setDetector_sources (src : Source) (d : Detector) :
    (s.setDetector src d).sources = s.sources := rfl
@[simp] theorem State.setDetector_channels (src : Source) (d : Detector) :
    (s.setDetector src d).channels = s.channels := rfl
@[simp] theorem State.setDetector_blockCount (src : Source) (d : Detector) :
    (s.setDetector src d).blockCount = s.blockCount := rfl
@[simp] theorem State.setDetector_detectors (src : Source) (d : Detector) :
    (s.setDetector src d).detectors = vset s.detectors src d := rfl
@[simp] theorem State.setDetector_notches (src : Source) (d : Detector) :
    (s.setDetector src d).notches = s.notches := rfl
@[simp] theorem State.setDetector_sections (src : Source) (d : Detector) :
    (s.setDetector src d).sections = s.sections := rfl
@[simp] theorem State.setDetector_windowCount (src : Source) (d : Detector) :
    (s.setDetector src d).windowCount = s.windowCount := rfl
@[simp] theorem State.setDetector_secondCount (src : Source) (d : Detector) :
    (s.setDetector src d).secondCount = s.secondCount := rfl
@[simp] theorem State.setDetector_stepped (src : Source) (d : Detector) :
    (s.setDetector src d).stepped = s.stepped := rfl
@[simp] theorem State.setDetector_mixers (src : Source) (d : Detector) : (s.setDetector src d).mixers = s.mixers := rfl
@[simp] theorem State.setDetector_portA (src : Source) (d : Detector) : (s.setDetector src d).portA = s.portA := rfl
@[simp] theorem State.setDetector_portB (src : Source) (d : Detector) : (s.setDetector src d).portB = s.portB := rfl
@[simp] theorem State.setDetector_cues (src : Source) (d : Detector) : (s.setDetector src d).cues = s.cues := rfl
@[simp] theorem State.setDetector_clock (src : Source) (d : Detector) : (s.setDetector src d).clock = s.clock := rfl
@[simp] theorem State.setDetector_link (src : Source) (d : Detector) : (s.setDetector src d).link = s.link := rfl
@[simp] theorem State.setDetector_service (src : Source) (d : Detector) :
    (s.setDetector src d).service = s.service := rfl
@[simp] theorem State.setDetector_freeSerial (src : Source) (d : Detector) :
    (s.setDetector src d).freeSerial = s.freeSerial := rfl
@[simp] theorem State.setDetector_pending (src : Source) (d : Detector) :
    (s.setDetector src d).pending = s.pending := rfl

/-! ### setNotches -/

@[simp] theorem State.setNotches_stations (src : Source) (t : List Notch) :
    (s.setNotches src t).stations = s.stations := rfl
@[simp] theorem State.setNotches_zones (src : Source) (t : List Notch) : (s.setNotches src t).zones = s.zones := rfl
@[simp] theorem State.setNotches_areas (src : Source) (t : List Notch) : (s.setNotches src t).areas = s.areas := rfl
@[simp] theorem State.setNotches_timing (src : Source) (t : List Notch) : (s.setNotches src t).timing = s.timing := rfl
@[simp] theorem State.setNotches_reportedTemperature (src : Source) (t : List Notch) :
    (s.setNotches src t).reportedTemperature = s.reportedTemperature := rfl
@[simp] theorem State.setNotches_temperatureInUse (src : Source) (t : List Notch) :
    (s.setNotches src t).temperatureInUse = s.temperatureInUse := rfl
@[simp] theorem State.setNotches_placements (src : Source) (t : List Notch) :
    (s.setNotches src t).placements = s.placements := rfl
@[simp] theorem State.setNotches_feeds (src : Source) (t : List Notch) : (s.setNotches src t).feeds = s.feeds := rfl
@[simp] theorem State.setNotches_queue (src : Source) (t : List Notch) : (s.setNotches src t).queue = s.queue := rfl
@[simp] theorem State.setNotches_sources (src : Source) (t : List Notch) :
    (s.setNotches src t).sources = s.sources := rfl
@[simp] theorem State.setNotches_channels (src : Source) (t : List Notch) :
    (s.setNotches src t).channels = s.channels := rfl
@[simp] theorem State.setNotches_blockCount (src : Source) (t : List Notch) :
    (s.setNotches src t).blockCount = s.blockCount := rfl
@[simp] theorem State.setNotches_detectors (src : Source) (t : List Notch) :
    (s.setNotches src t).detectors = s.detectors := rfl
@[simp] theorem State.setNotches_notches (src : Source) (t : List Notch) :
    (s.setNotches src t).notches = vset s.notches src t := rfl
@[simp] theorem State.setNotches_sections (src : Source) (t : List Notch) :
    (s.setNotches src t).sections = s.sections := rfl
@[simp] theorem State.setNotches_windowCount (src : Source) (t : List Notch) :
    (s.setNotches src t).windowCount = s.windowCount := rfl
@[simp] theorem State.setNotches_secondCount (src : Source) (t : List Notch) :
    (s.setNotches src t).secondCount = s.secondCount := rfl
@[simp] theorem State.setNotches_stepped (src : Source) (t : List Notch) :
    (s.setNotches src t).stepped = s.stepped := rfl
@[simp] theorem State.setNotches_mixers (src : Source) (t : List Notch) : (s.setNotches src t).mixers = s.mixers := rfl
@[simp] theorem State.setNotches_portA (src : Source) (t : List Notch) : (s.setNotches src t).portA = s.portA := rfl
@[simp] theorem State.setNotches_portB (src : Source) (t : List Notch) : (s.setNotches src t).portB = s.portB := rfl
@[simp] theorem State.setNotches_cues (src : Source) (t : List Notch) : (s.setNotches src t).cues = s.cues := rfl
@[simp] theorem State.setNotches_clock (src : Source) (t : List Notch) : (s.setNotches src t).clock = s.clock := rfl
@[simp] theorem State.setNotches_link (src : Source) (t : List Notch) : (s.setNotches src t).link = s.link := rfl
@[simp] theorem State.setNotches_service (src : Source) (t : List Notch) :
    (s.setNotches src t).service = s.service := rfl
@[simp] theorem State.setNotches_freeSerial (src : Source) (t : List Notch) :
    (s.setNotches src t).freeSerial = s.freeSerial := rfl
@[simp] theorem State.setNotches_pending (src : Source) (t : List Notch) :
    (s.setNotches src t).pending = s.pending := rfl

/-! ### setSections -/

@[simp] theorem State.setSections_stations (src : Source) (t : Vector (Option NotchSection) 16) :
    (s.setSections src t).stations = s.stations := rfl
@[simp] theorem State.setSections_zones (src : Source) (t : Vector (Option NotchSection) 16) :
    (s.setSections src t).zones = s.zones := rfl
@[simp] theorem State.setSections_areas (src : Source) (t : Vector (Option NotchSection) 16) :
    (s.setSections src t).areas = s.areas := rfl
@[simp] theorem State.setSections_timing (src : Source) (t : Vector (Option NotchSection) 16) :
    (s.setSections src t).timing = s.timing := rfl
@[simp] theorem State.setSections_reportedTemperature (src : Source) (t : Vector (Option NotchSection) 16) :
    (s.setSections src t).reportedTemperature = s.reportedTemperature := rfl
@[simp] theorem State.setSections_temperatureInUse (src : Source) (t : Vector (Option NotchSection) 16) :
    (s.setSections src t).temperatureInUse = s.temperatureInUse := rfl
@[simp] theorem State.setSections_placements (src : Source) (t : Vector (Option NotchSection) 16) :
    (s.setSections src t).placements = s.placements := rfl
@[simp] theorem State.setSections_feeds (src : Source) (t : Vector (Option NotchSection) 16) :
    (s.setSections src t).feeds = s.feeds := rfl
@[simp] theorem State.setSections_queue (src : Source) (t : Vector (Option NotchSection) 16) :
    (s.setSections src t).queue = s.queue := rfl
@[simp] theorem State.setSections_sources (src : Source) (t : Vector (Option NotchSection) 16) :
    (s.setSections src t).sources = s.sources := rfl
@[simp] theorem State.setSections_channels (src : Source) (t : Vector (Option NotchSection) 16) :
    (s.setSections src t).channels = s.channels := rfl
@[simp] theorem State.setSections_blockCount (src : Source) (t : Vector (Option NotchSection) 16) :
    (s.setSections src t).blockCount = s.blockCount := rfl
@[simp] theorem State.setSections_detectors (src : Source) (t : Vector (Option NotchSection) 16) :
    (s.setSections src t).detectors = s.detectors := rfl
@[simp] theorem State.setSections_notches (src : Source) (t : Vector (Option NotchSection) 16) :
    (s.setSections src t).notches = s.notches := rfl
@[simp] theorem State.setSections_sections (src : Source) (t : Vector (Option NotchSection) 16) :
    (s.setSections src t).sections = vset s.sections src t := rfl
@[simp] theorem State.setSections_windowCount (src : Source) (t : Vector (Option NotchSection) 16) :
    (s.setSections src t).windowCount = s.windowCount := rfl
@[simp] theorem State.setSections_secondCount (src : Source) (t : Vector (Option NotchSection) 16) :
    (s.setSections src t).secondCount = s.secondCount := rfl
@[simp] theorem State.setSections_stepped (src : Source) (t : Vector (Option NotchSection) 16) :
    (s.setSections src t).stepped = s.stepped := rfl
@[simp] theorem State.setSections_mixers (src : Source) (t : Vector (Option NotchSection) 16) :
    (s.setSections src t).mixers = s.mixers := rfl
@[simp] theorem State.setSections_portA (src : Source) (t : Vector (Option NotchSection) 16) :
    (s.setSections src t).portA = s.portA := rfl
@[simp] theorem State.setSections_portB (src : Source) (t : Vector (Option NotchSection) 16) :
    (s.setSections src t).portB = s.portB := rfl
@[simp] theorem State.setSections_cues (src : Source) (t : Vector (Option NotchSection) 16) :
    (s.setSections src t).cues = s.cues := rfl
@[simp] theorem State.setSections_clock (src : Source) (t : Vector (Option NotchSection) 16) :
    (s.setSections src t).clock = s.clock := rfl
@[simp] theorem State.setSections_link (src : Source) (t : Vector (Option NotchSection) 16) :
    (s.setSections src t).link = s.link := rfl
@[simp] theorem State.setSections_service (src : Source) (t : Vector (Option NotchSection) 16) :
    (s.setSections src t).service = s.service := rfl
@[simp] theorem State.setSections_freeSerial (src : Source) (t : Vector (Option NotchSection) 16) :
    (s.setSections src t).freeSerial = s.freeSerial := rfl
@[simp] theorem State.setSections_pending (src : Source) (t : Vector (Option NotchSection) 16) :
    (s.setSections src t).pending = s.pending := rfl

/-! ### setTable -/

@[simp] theorem State.setTable_stations (src : Source) (t : List Notch) (secs : Vector (Option NotchSection) 16) :
    (s.setTable src t secs).stations = s.stations := rfl
@[simp] theorem State.setTable_zones (src : Source) (t : List Notch) (secs : Vector (Option NotchSection) 16) :
    (s.setTable src t secs).zones = s.zones := rfl
@[simp] theorem State.setTable_areas (src : Source) (t : List Notch) (secs : Vector (Option NotchSection) 16) :
    (s.setTable src t secs).areas = s.areas := rfl
@[simp] theorem State.setTable_timing (src : Source) (t : List Notch) (secs : Vector (Option NotchSection) 16) :
    (s.setTable src t secs).timing = s.timing := rfl
@[simp] theorem State.setTable_reportedTemperature (src : Source) (t : List Notch) (secs : Vector (Option NotchSection) 16) :
    (s.setTable src t secs).reportedTemperature = s.reportedTemperature := rfl
@[simp] theorem State.setTable_temperatureInUse (src : Source) (t : List Notch) (secs : Vector (Option NotchSection) 16) :
    (s.setTable src t secs).temperatureInUse = s.temperatureInUse := rfl
@[simp] theorem State.setTable_placements (src : Source) (t : List Notch) (secs : Vector (Option NotchSection) 16) :
    (s.setTable src t secs).placements = s.placements := rfl
@[simp] theorem State.setTable_feeds (src : Source) (t : List Notch) (secs : Vector (Option NotchSection) 16) :
    (s.setTable src t secs).feeds = s.feeds := rfl
@[simp] theorem State.setTable_queue (src : Source) (t : List Notch) (secs : Vector (Option NotchSection) 16) :
    (s.setTable src t secs).queue = s.queue := rfl
@[simp] theorem State.setTable_sources (src : Source) (t : List Notch) (secs : Vector (Option NotchSection) 16) :
    (s.setTable src t secs).sources = s.sources := rfl
@[simp] theorem State.setTable_channels (src : Source) (t : List Notch) (secs : Vector (Option NotchSection) 16) :
    (s.setTable src t secs).channels = s.channels := rfl
@[simp] theorem State.setTable_blockCount (src : Source) (t : List Notch) (secs : Vector (Option NotchSection) 16) :
    (s.setTable src t secs).blockCount = s.blockCount := rfl
@[simp] theorem State.setTable_detectors (src : Source) (t : List Notch) (secs : Vector (Option NotchSection) 16) :
    (s.setTable src t secs).detectors = s.detectors := rfl
@[simp] theorem State.setTable_notches (src : Source) (t : List Notch) (secs : Vector (Option NotchSection) 16) :
    (s.setTable src t secs).notches = vset s.notches src t := rfl
@[simp] theorem State.setTable_sections (src : Source) (t : List Notch) (secs : Vector (Option NotchSection) 16) :
    (s.setTable src t secs).sections = vset s.sections src secs := rfl
@[simp] theorem State.setTable_windowCount (src : Source) (t : List Notch) (secs : Vector (Option NotchSection) 16) :
    (s.setTable src t secs).windowCount = s.windowCount := rfl
@[simp] theorem State.setTable_secondCount (src : Source) (t : List Notch) (secs : Vector (Option NotchSection) 16) :
    (s.setTable src t secs).secondCount = s.secondCount := rfl
@[simp] theorem State.setTable_stepped (src : Source) (t : List Notch) (secs : Vector (Option NotchSection) 16) :
    (s.setTable src t secs).stepped = s.stepped := rfl
@[simp] theorem State.setTable_mixers (src : Source) (t : List Notch) (secs : Vector (Option NotchSection) 16) :
    (s.setTable src t secs).mixers = s.mixers := rfl
@[simp] theorem State.setTable_portA (src : Source) (t : List Notch) (secs : Vector (Option NotchSection) 16) :
    (s.setTable src t secs).portA = s.portA := rfl
@[simp] theorem State.setTable_portB (src : Source) (t : List Notch) (secs : Vector (Option NotchSection) 16) :
    (s.setTable src t secs).portB = s.portB := rfl
@[simp] theorem State.setTable_cues (src : Source) (t : List Notch) (secs : Vector (Option NotchSection) 16) :
    (s.setTable src t secs).cues = s.cues := rfl
@[simp] theorem State.setTable_clock (src : Source) (t : List Notch) (secs : Vector (Option NotchSection) 16) :
    (s.setTable src t secs).clock = s.clock := rfl
@[simp] theorem State.setTable_link (src : Source) (t : List Notch) (secs : Vector (Option NotchSection) 16) :
    (s.setTable src t secs).link = s.link := rfl
@[simp] theorem State.setTable_service (src : Source) (t : List Notch) (secs : Vector (Option NotchSection) 16) :
    (s.setTable src t secs).service = s.service := rfl
@[simp] theorem State.setTable_freeSerial (src : Source) (t : List Notch) (secs : Vector (Option NotchSection) 16) :
    (s.setTable src t secs).freeSerial = s.freeSerial := rfl
@[simp] theorem State.setTable_pending (src : Source) (t : List Notch) (secs : Vector (Option NotchSection) 16) :
    (s.setTable src t secs).pending = s.pending := rfl

/-! ### setCue -/

@[simp] theorem State.setCue_stations (l : Line) (c : CueLine) : (s.setCue l c).stations = s.stations := rfl
@[simp] theorem State.setCue_zones (l : Line) (c : CueLine) : (s.setCue l c).zones = s.zones := rfl
@[simp] theorem State.setCue_areas (l : Line) (c : CueLine) : (s.setCue l c).areas = s.areas := rfl
@[simp] theorem State.setCue_timing (l : Line) (c : CueLine) : (s.setCue l c).timing = s.timing := rfl
@[simp] theorem State.setCue_reportedTemperature (l : Line) (c : CueLine) :
    (s.setCue l c).reportedTemperature = s.reportedTemperature := rfl
@[simp] theorem State.setCue_temperatureInUse (l : Line) (c : CueLine) :
    (s.setCue l c).temperatureInUse = s.temperatureInUse := rfl
@[simp] theorem State.setCue_placements (l : Line) (c : CueLine) : (s.setCue l c).placements = s.placements := rfl
@[simp] theorem State.setCue_feeds (l : Line) (c : CueLine) : (s.setCue l c).feeds = s.feeds := rfl
@[simp] theorem State.setCue_queue (l : Line) (c : CueLine) : (s.setCue l c).queue = s.queue := rfl
@[simp] theorem State.setCue_sources (l : Line) (c : CueLine) : (s.setCue l c).sources = s.sources := rfl
@[simp] theorem State.setCue_channels (l : Line) (c : CueLine) : (s.setCue l c).channels = s.channels := rfl
@[simp] theorem State.setCue_blockCount (l : Line) (c : CueLine) : (s.setCue l c).blockCount = s.blockCount := rfl
@[simp] theorem State.setCue_detectors (l : Line) (c : CueLine) : (s.setCue l c).detectors = s.detectors := rfl
@[simp] theorem State.setCue_notches (l : Line) (c : CueLine) : (s.setCue l c).notches = s.notches := rfl
@[simp] theorem State.setCue_sections (l : Line) (c : CueLine) : (s.setCue l c).sections = s.sections := rfl
@[simp] theorem State.setCue_windowCount (l : Line) (c : CueLine) : (s.setCue l c).windowCount = s.windowCount := rfl
@[simp] theorem State.setCue_secondCount (l : Line) (c : CueLine) : (s.setCue l c).secondCount = s.secondCount := rfl
@[simp] theorem State.setCue_stepped (l : Line) (c : CueLine) : (s.setCue l c).stepped = s.stepped := rfl
@[simp] theorem State.setCue_mixers (l : Line) (c : CueLine) : (s.setCue l c).mixers = s.mixers := rfl
@[simp] theorem State.setCue_portA (l : Line) (c : CueLine) : (s.setCue l c).portA = s.portA := rfl
@[simp] theorem State.setCue_portB (l : Line) (c : CueLine) : (s.setCue l c).portB = s.portB := rfl
@[simp] theorem State.setCue_cues (l : Line) (c : CueLine) : (s.setCue l c).cues = vset s.cues l c := rfl
@[simp] theorem State.setCue_clock (l : Line) (c : CueLine) : (s.setCue l c).clock = s.clock := rfl
@[simp] theorem State.setCue_link (l : Line) (c : CueLine) : (s.setCue l c).link = s.link := rfl
@[simp] theorem State.setCue_service (l : Line) (c : CueLine) : (s.setCue l c).service = s.service := rfl
@[simp] theorem State.setCue_freeSerial (l : Line) (c : CueLine) : (s.setCue l c).freeSerial = s.freeSerial := rfl
@[simp] theorem State.setCue_pending (l : Line) (c : CueLine) : (s.setCue l c).pending = s.pending := rfl

/-! ### refreshGains -/

@[simp] theorem State.refreshGains_stations : (s.refreshGains).stations = s.stations := rfl
@[simp] theorem State.refreshGains_zones : (s.refreshGains).zones = s.zones := rfl
@[simp] theorem State.refreshGains_areas : (s.refreshGains).areas = s.areas := rfl
@[simp] theorem State.refreshGains_timing : (s.refreshGains).timing = s.timing := rfl
@[simp] theorem State.refreshGains_reportedTemperature :
    (s.refreshGains).reportedTemperature = s.reportedTemperature := rfl
@[simp] theorem State.refreshGains_temperatureInUse : (s.refreshGains).temperatureInUse = s.temperatureInUse := rfl
@[simp] theorem State.refreshGains_placements : (s.refreshGains).placements = s.placements := rfl
@[simp] theorem State.refreshGains_feeds :
    (s.refreshGains).feeds =
    vgen fun src => vgen fun z => (s.feed (src, z)).map fun f => f.smoothed (s.effectiveGain z f) := rfl
@[simp] theorem State.refreshGains_queue : (s.refreshGains).queue = s.queue := rfl
@[simp] theorem State.refreshGains_sources : (s.refreshGains).sources = s.sources := rfl
@[simp] theorem State.refreshGains_channels : (s.refreshGains).channels = s.channels := rfl
@[simp] theorem State.refreshGains_blockCount : (s.refreshGains).blockCount = s.blockCount := rfl
@[simp] theorem State.refreshGains_detectors : (s.refreshGains).detectors = s.detectors := rfl
@[simp] theorem State.refreshGains_notches : (s.refreshGains).notches = s.notches := rfl
@[simp] theorem State.refreshGains_sections : (s.refreshGains).sections = s.sections := rfl
@[simp] theorem State.refreshGains_windowCount : (s.refreshGains).windowCount = s.windowCount := rfl
@[simp] theorem State.refreshGains_secondCount : (s.refreshGains).secondCount = s.secondCount := rfl
@[simp] theorem State.refreshGains_stepped : (s.refreshGains).stepped = s.stepped := rfl
@[simp] theorem State.refreshGains_mixers : (s.refreshGains).mixers = s.mixers := rfl
@[simp] theorem State.refreshGains_portA : (s.refreshGains).portA = s.portA := rfl
@[simp] theorem State.refreshGains_portB : (s.refreshGains).portB = s.portB := rfl
@[simp] theorem State.refreshGains_cues : (s.refreshGains).cues = s.cues := rfl
@[simp] theorem State.refreshGains_clock : (s.refreshGains).clock = s.clock := rfl
@[simp] theorem State.refreshGains_link : (s.refreshGains).link = s.link := rfl
@[simp] theorem State.refreshGains_service : (s.refreshGains).service = s.service := rfl
@[simp] theorem State.refreshGains_freeSerial : (s.refreshGains).freeSerial = s.freeSerial := rfl
@[simp] theorem State.refreshGains_pending : (s.refreshGains).pending = s.pending := rfl

/-! ### raise -/

@[simp] theorem State.raise_stations (f : EventFlag) : (s.raise f).stations = s.stations := rfl
@[simp] theorem State.raise_zones (f : EventFlag) : (s.raise f).zones = s.zones := rfl
@[simp] theorem State.raise_areas (f : EventFlag) : (s.raise f).areas = s.areas := rfl
@[simp] theorem State.raise_timing (f : EventFlag) : (s.raise f).timing = s.timing := rfl
@[simp] theorem State.raise_reportedTemperature (f : EventFlag) :
    (s.raise f).reportedTemperature = s.reportedTemperature := rfl
@[simp] theorem State.raise_temperatureInUse (f : EventFlag) : (s.raise f).temperatureInUse = s.temperatureInUse := rfl
@[simp] theorem State.raise_placements (f : EventFlag) : (s.raise f).placements = s.placements := rfl
@[simp] theorem State.raise_feeds (f : EventFlag) : (s.raise f).feeds = s.feeds := rfl
@[simp] theorem State.raise_queue (f : EventFlag) : (s.raise f).queue = s.queue := rfl
@[simp] theorem State.raise_sources (f : EventFlag) : (s.raise f).sources = s.sources := rfl
@[simp] theorem State.raise_channels (f : EventFlag) : (s.raise f).channels = s.channels := rfl
@[simp] theorem State.raise_blockCount (f : EventFlag) : (s.raise f).blockCount = s.blockCount := rfl
@[simp] theorem State.raise_detectors (f : EventFlag) : (s.raise f).detectors = s.detectors := rfl
@[simp] theorem State.raise_notches (f : EventFlag) : (s.raise f).notches = s.notches := rfl
@[simp] theorem State.raise_sections (f : EventFlag) : (s.raise f).sections = s.sections := rfl
@[simp] theorem State.raise_windowCount (f : EventFlag) : (s.raise f).windowCount = s.windowCount := rfl
@[simp] theorem State.raise_secondCount (f : EventFlag) : (s.raise f).secondCount = s.secondCount := rfl
@[simp] theorem State.raise_stepped (f : EventFlag) : (s.raise f).stepped = s.stepped := rfl
@[simp] theorem State.raise_mixers (f : EventFlag) : (s.raise f).mixers = s.mixers := rfl
@[simp] theorem State.raise_portA (f : EventFlag) : (s.raise f).portA = s.portA := rfl
@[simp] theorem State.raise_portB (f : EventFlag) : (s.raise f).portB = s.portB := rfl
@[simp] theorem State.raise_cues (f : EventFlag) : (s.raise f).cues = s.cues := rfl
@[simp] theorem State.raise_clock (f : EventFlag) : (s.raise f).clock = s.clock := rfl
@[simp] theorem State.raise_link (f : EventFlag) :
    (s.raise f).link = { s.link with flags := s.link.flags ||| f.bit } := rfl
@[simp] theorem State.raise_service (f : EventFlag) : (s.raise f).service = s.service := rfl
@[simp] theorem State.raise_freeSerial (f : EventFlag) : (s.raise f).freeSerial = s.freeSerial := rfl
@[simp] theorem State.raise_pending (f : EventFlag) : (s.raise f).pending = s.pending := rfl

/-! ### lower -/

@[simp] theorem State.lower_stations (f : EventFlag) : (s.lower f).stations = s.stations := rfl
@[simp] theorem State.lower_zones (f : EventFlag) : (s.lower f).zones = s.zones := rfl
@[simp] theorem State.lower_areas (f : EventFlag) : (s.lower f).areas = s.areas := rfl
@[simp] theorem State.lower_timing (f : EventFlag) : (s.lower f).timing = s.timing := rfl
@[simp] theorem State.lower_reportedTemperature (f : EventFlag) :
    (s.lower f).reportedTemperature = s.reportedTemperature := rfl
@[simp] theorem State.lower_temperatureInUse (f : EventFlag) : (s.lower f).temperatureInUse = s.temperatureInUse := rfl
@[simp] theorem State.lower_placements (f : EventFlag) : (s.lower f).placements = s.placements := rfl
@[simp] theorem State.lower_feeds (f : EventFlag) : (s.lower f).feeds = s.feeds := rfl
@[simp] theorem State.lower_queue (f : EventFlag) : (s.lower f).queue = s.queue := rfl
@[simp] theorem State.lower_sources (f : EventFlag) : (s.lower f).sources = s.sources := rfl
@[simp] theorem State.lower_channels (f : EventFlag) : (s.lower f).channels = s.channels := rfl
@[simp] theorem State.lower_blockCount (f : EventFlag) : (s.lower f).blockCount = s.blockCount := rfl
@[simp] theorem State.lower_detectors (f : EventFlag) : (s.lower f).detectors = s.detectors := rfl
@[simp] theorem State.lower_notches (f : EventFlag) : (s.lower f).notches = s.notches := rfl
@[simp] theorem State.lower_sections (f : EventFlag) : (s.lower f).sections = s.sections := rfl
@[simp] theorem State.lower_windowCount (f : EventFlag) : (s.lower f).windowCount = s.windowCount := rfl
@[simp] theorem State.lower_secondCount (f : EventFlag) : (s.lower f).secondCount = s.secondCount := rfl
@[simp] theorem State.lower_stepped (f : EventFlag) : (s.lower f).stepped = s.stepped := rfl
@[simp] theorem State.lower_mixers (f : EventFlag) : (s.lower f).mixers = s.mixers := rfl
@[simp] theorem State.lower_portA (f : EventFlag) : (s.lower f).portA = s.portA := rfl
@[simp] theorem State.lower_portB (f : EventFlag) : (s.lower f).portB = s.portB := rfl
@[simp] theorem State.lower_cues (f : EventFlag) : (s.lower f).cues = s.cues := rfl
@[simp] theorem State.lower_clock (f : EventFlag) : (s.lower f).clock = s.clock := rfl
@[simp] theorem State.lower_link (f : EventFlag) :
    (s.lower f).link = { s.link with flags := s.link.flags &&& ~~~f.bit } := rfl
@[simp] theorem State.lower_service (f : EventFlag) : (s.lower f).service = s.service := rfl
@[simp] theorem State.lower_freeSerial (f : EventFlag) : (s.lower f).freeSerial = s.freeSerial := rfl
@[simp] theorem State.lower_pending (f : EventFlag) : (s.lower f).pending = s.pending := rfl

/-! ### unqueue -/

@[simp] theorem State.unqueue_stations (k : FeedKey) : (s.unqueue k).stations = s.stations := rfl
@[simp] theorem State.unqueue_zones (k : FeedKey) : (s.unqueue k).zones = s.zones := rfl
@[simp] theorem State.unqueue_areas (k : FeedKey) : (s.unqueue k).areas = s.areas := rfl
@[simp] theorem State.unqueue_timing (k : FeedKey) : (s.unqueue k).timing = s.timing := rfl
@[simp] theorem State.unqueue_reportedTemperature (k : FeedKey) :
    (s.unqueue k).reportedTemperature = s.reportedTemperature := rfl
@[simp] theorem State.unqueue_temperatureInUse (k : FeedKey) :
    (s.unqueue k).temperatureInUse = s.temperatureInUse := rfl
@[simp] theorem State.unqueue_placements (k : FeedKey) : (s.unqueue k).placements = s.placements := rfl
@[simp] theorem State.unqueue_feeds (k : FeedKey) : (s.unqueue k).feeds = s.feeds := rfl
@[simp] theorem State.unqueue_queue (k : FeedKey) : (s.unqueue k).queue = s.queue.filter (· ≠ k) := rfl
@[simp] theorem State.unqueue_sources (k : FeedKey) : (s.unqueue k).sources = s.sources := rfl
@[simp] theorem State.unqueue_channels (k : FeedKey) : (s.unqueue k).channels = s.channels := rfl
@[simp] theorem State.unqueue_blockCount (k : FeedKey) : (s.unqueue k).blockCount = s.blockCount := rfl
@[simp] theorem State.unqueue_detectors (k : FeedKey) : (s.unqueue k).detectors = s.detectors := rfl
@[simp] theorem State.unqueue_notches (k : FeedKey) : (s.unqueue k).notches = s.notches := rfl
@[simp] theorem State.unqueue_sections (k : FeedKey) : (s.unqueue k).sections = s.sections := rfl
@[simp] theorem State.unqueue_windowCount (k : FeedKey) : (s.unqueue k).windowCount = s.windowCount := rfl
@[simp] theorem State.unqueue_secondCount (k : FeedKey) : (s.unqueue k).secondCount = s.secondCount := rfl
@[simp] theorem State.unqueue_stepped (k : FeedKey) : (s.unqueue k).stepped = s.stepped := rfl
@[simp] theorem State.unqueue_mixers (k : FeedKey) : (s.unqueue k).mixers = s.mixers := rfl
@[simp] theorem State.unqueue_portA (k : FeedKey) : (s.unqueue k).portA = s.portA := rfl
@[simp] theorem State.unqueue_portB (k : FeedKey) : (s.unqueue k).portB = s.portB := rfl
@[simp] theorem State.unqueue_cues (k : FeedKey) : (s.unqueue k).cues = s.cues := rfl
@[simp] theorem State.unqueue_clock (k : FeedKey) : (s.unqueue k).clock = s.clock := rfl
@[simp] theorem State.unqueue_link (k : FeedKey) : (s.unqueue k).link = s.link := rfl
@[simp] theorem State.unqueue_service (k : FeedKey) : (s.unqueue k).service = s.service := rfl
@[simp] theorem State.unqueue_freeSerial (k : FeedKey) : (s.unqueue k).freeSerial = s.freeSerial := rfl
@[simp] theorem State.unqueue_pending (k : FeedKey) : (s.unqueue k).pending = s.pending := rfl

/-! ### release -/

@[simp] theorem State.release_stations (k : FeedKey) : (s.release k).stations = s.stations := rfl
@[simp] theorem State.release_zones (k : FeedKey) : (s.release k).zones = s.zones := rfl
@[simp] theorem State.release_areas (k : FeedKey) : (s.release k).areas = s.areas := rfl
@[simp] theorem State.release_timing (k : FeedKey) : (s.release k).timing = s.timing := rfl
@[simp] theorem State.release_reportedTemperature (k : FeedKey) :
    (s.release k).reportedTemperature = s.reportedTemperature := rfl
@[simp] theorem State.release_temperatureInUse (k : FeedKey) :
    (s.release k).temperatureInUse = s.temperatureInUse := rfl
@[simp] theorem State.release_placements (k : FeedKey) : (s.release k).placements = s.placements := rfl
@[simp] theorem State.release_feeds (k : FeedKey) :
    (s.release k).feeds = vset s.feeds k.1 (vset (vget s.feeds k.1) k.2 none) := rfl
@[simp] theorem State.release_queue (k : FeedKey) : (s.release k).queue = s.queue.filter (· ≠ k) := rfl
@[simp] theorem State.release_sources (k : FeedKey) : (s.release k).sources = s.sources := rfl
@[simp] theorem State.release_channels (k : FeedKey) : (s.release k).channels = s.channels := rfl
@[simp] theorem State.release_blockCount (k : FeedKey) : (s.release k).blockCount = s.blockCount := rfl
@[simp] theorem State.release_detectors (k : FeedKey) : (s.release k).detectors = s.detectors := rfl
@[simp] theorem State.release_notches (k : FeedKey) : (s.release k).notches = s.notches := rfl
@[simp] theorem State.release_sections (k : FeedKey) : (s.release k).sections = s.sections := rfl
@[simp] theorem State.release_windowCount (k : FeedKey) : (s.release k).windowCount = s.windowCount := rfl
@[simp] theorem State.release_secondCount (k : FeedKey) : (s.release k).secondCount = s.secondCount := rfl
@[simp] theorem State.release_stepped (k : FeedKey) : (s.release k).stepped = s.stepped := rfl
@[simp] theorem State.release_mixers (k : FeedKey) : (s.release k).mixers = s.mixers := rfl
@[simp] theorem State.release_portA (k : FeedKey) : (s.release k).portA = s.portA := rfl
@[simp] theorem State.release_portB (k : FeedKey) : (s.release k).portB = s.portB := rfl
@[simp] theorem State.release_cues (k : FeedKey) : (s.release k).cues = s.cues := rfl
@[simp] theorem State.release_clock (k : FeedKey) : (s.release k).clock = s.clock := rfl
@[simp] theorem State.release_link (k : FeedKey) : (s.release k).link = s.link := rfl
@[simp] theorem State.release_service (k : FeedKey) : (s.release k).service = s.service := rfl
@[simp] theorem State.release_freeSerial (k : FeedKey) : (s.release k).freeSerial = s.freeSerial := rfl
@[simp] theorem State.release_pending (k : FeedKey) : (s.release k).pending = s.pending := rfl

/-! ### respond -/

@[simp] theorem State.respond_stations (r : ResultCode) (e : Byte) (p : List Byte) :
    (s.respond r e p).stations = s.stations := rfl
@[simp] theorem State.respond_zones (r : ResultCode) (e : Byte) (p : List Byte) :
    (s.respond r e p).zones = s.zones := rfl
@[simp] theorem State.respond_areas (r : ResultCode) (e : Byte) (p : List Byte) :
    (s.respond r e p).areas = s.areas := rfl
@[simp] theorem State.respond_timing (r : ResultCode) (e : Byte) (p : List Byte) :
    (s.respond r e p).timing = s.timing := rfl
@[simp] theorem State.respond_reportedTemperature (r : ResultCode) (e : Byte) (p : List Byte) :
    (s.respond r e p).reportedTemperature = s.reportedTemperature := rfl
@[simp] theorem State.respond_temperatureInUse (r : ResultCode) (e : Byte) (p : List Byte) :
    (s.respond r e p).temperatureInUse = s.temperatureInUse := rfl
@[simp] theorem State.respond_placements (r : ResultCode) (e : Byte) (p : List Byte) :
    (s.respond r e p).placements = s.placements := rfl
@[simp] theorem State.respond_feeds (r : ResultCode) (e : Byte) (p : List Byte) :
    (s.respond r e p).feeds = s.feeds := rfl
@[simp] theorem State.respond_queue (r : ResultCode) (e : Byte) (p : List Byte) :
    (s.respond r e p).queue = s.queue := rfl
@[simp] theorem State.respond_sources (r : ResultCode) (e : Byte) (p : List Byte) :
    (s.respond r e p).sources = s.sources := rfl
@[simp] theorem State.respond_channels (r : ResultCode) (e : Byte) (p : List Byte) :
    (s.respond r e p).channels = s.channels := rfl
@[simp] theorem State.respond_blockCount (r : ResultCode) (e : Byte) (p : List Byte) :
    (s.respond r e p).blockCount = s.blockCount := rfl
@[simp] theorem State.respond_detectors (r : ResultCode) (e : Byte) (p : List Byte) :
    (s.respond r e p).detectors = s.detectors := rfl
@[simp] theorem State.respond_notches (r : ResultCode) (e : Byte) (p : List Byte) :
    (s.respond r e p).notches = s.notches := rfl
@[simp] theorem State.respond_sections (r : ResultCode) (e : Byte) (p : List Byte) :
    (s.respond r e p).sections = s.sections := rfl
@[simp] theorem State.respond_windowCount (r : ResultCode) (e : Byte) (p : List Byte) :
    (s.respond r e p).windowCount = s.windowCount := rfl
@[simp] theorem State.respond_secondCount (r : ResultCode) (e : Byte) (p : List Byte) :
    (s.respond r e p).secondCount = s.secondCount := rfl
@[simp] theorem State.respond_stepped (r : ResultCode) (e : Byte) (p : List Byte) :
    (s.respond r e p).stepped = s.stepped := rfl
@[simp] theorem State.respond_mixers (r : ResultCode) (e : Byte) (p : List Byte) :
    (s.respond r e p).mixers = s.mixers := rfl
@[simp] theorem State.respond_portA (r : ResultCode) (e : Byte) (p : List Byte) :
    (s.respond r e p).portA = s.portA := rfl
@[simp] theorem State.respond_portB (r : ResultCode) (e : Byte) (p : List Byte) :
    (s.respond r e p).portB = s.portB := rfl
@[simp] theorem State.respond_cues (r : ResultCode) (e : Byte) (p : List Byte) : (s.respond r e p).cues = s.cues := rfl
@[simp] theorem State.respond_clock (r : ResultCode) (e : Byte) (p : List Byte) :
    (s.respond r e p).clock = s.clock := rfl
@[simp] theorem State.respond_link (r : ResultCode) (e : Byte) (p : List Byte) :
    (s.respond r e p).link = { s.link with receiveBuffer := [], transaction := none, response := ⟨r, e, p⟩ } := rfl
@[simp] theorem State.respond_service (r : ResultCode) (e : Byte) (p : List Byte) :
    (s.respond r e p).service = s.service := rfl
@[simp] theorem State.respond_freeSerial (r : ResultCode) (e : Byte) (p : List Byte) :
    (s.respond r e p).freeSerial = s.freeSerial := rfl
@[simp] theorem State.respond_pending (r : ResultCode) (e : Byte) (p : List Byte) :
    (s.respond r e p).pending = s.pending := rfl

/-! ### endTransaction -/

@[simp] theorem State.endTransaction_stations : (s.endTransaction).stations = s.stations := rfl
@[simp] theorem State.endTransaction_zones : (s.endTransaction).zones = s.zones := rfl
@[simp] theorem State.endTransaction_areas : (s.endTransaction).areas = s.areas := rfl
@[simp] theorem State.endTransaction_timing : (s.endTransaction).timing = s.timing := rfl
@[simp] theorem State.endTransaction_reportedTemperature :
    (s.endTransaction).reportedTemperature = s.reportedTemperature := rfl
@[simp] theorem State.endTransaction_temperatureInUse : (s.endTransaction).temperatureInUse = s.temperatureInUse := rfl
@[simp] theorem State.endTransaction_placements : (s.endTransaction).placements = s.placements := rfl
@[simp] theorem State.endTransaction_feeds : (s.endTransaction).feeds = s.feeds := rfl
@[simp] theorem State.endTransaction_queue : (s.endTransaction).queue = s.queue := rfl
@[simp] theorem State.endTransaction_sources : (s.endTransaction).sources = s.sources := rfl
@[simp] theorem State.endTransaction_channels : (s.endTransaction).channels = s.channels := rfl
@[simp] theorem State.endTransaction_blockCount : (s.endTransaction).blockCount = s.blockCount := rfl
@[simp] theorem State.endTransaction_detectors : (s.endTransaction).detectors = s.detectors := rfl
@[simp] theorem State.endTransaction_notches : (s.endTransaction).notches = s.notches := rfl
@[simp] theorem State.endTransaction_sections : (s.endTransaction).sections = s.sections := rfl
@[simp] theorem State.endTransaction_windowCount : (s.endTransaction).windowCount = s.windowCount := rfl
@[simp] theorem State.endTransaction_secondCount : (s.endTransaction).secondCount = s.secondCount := rfl
@[simp] theorem State.endTransaction_stepped : (s.endTransaction).stepped = s.stepped := rfl
@[simp] theorem State.endTransaction_mixers : (s.endTransaction).mixers = s.mixers := rfl
@[simp] theorem State.endTransaction_portA : (s.endTransaction).portA = s.portA := rfl
@[simp] theorem State.endTransaction_portB : (s.endTransaction).portB = s.portB := rfl
@[simp] theorem State.endTransaction_cues : (s.endTransaction).cues = s.cues := rfl
@[simp] theorem State.endTransaction_clock : (s.endTransaction).clock = s.clock := rfl
@[simp] theorem State.endTransaction_link :
    (s.endTransaction).link = { s.link with receiveBuffer := [], transaction := none } := rfl
@[simp] theorem State.endTransaction_service : (s.endTransaction).service = s.service := rfl
@[simp] theorem State.endTransaction_freeSerial : (s.endTransaction).freeSerial = s.freeSerial := rfl
@[simp] theorem State.endTransaction_pending : (s.endTransaction).pending = s.pending := rfl

/-! ### writeStation -/

@[simp] theorem State.writeStation_stations (st : StationId) (r : Station) :
    (s.writeStation st r).stations = vset s.stations st r := rfl
@[simp] theorem State.writeStation_zones (st : StationId) (r : Station) : (s.writeStation st r).zones = s.zones := rfl
@[simp] theorem State.writeStation_areas (st : StationId) (r : Station) : (s.writeStation st r).areas = s.areas := rfl
@[simp] theorem State.writeStation_timing (st : StationId) (r : Station) :
    (s.writeStation st r).timing = s.timing := rfl
@[simp] theorem State.writeStation_reportedTemperature (st : StationId) (r : Station) :
    (s.writeStation st r).reportedTemperature = s.reportedTemperature := rfl
@[simp] theorem State.writeStation_temperatureInUse (st : StationId) (r : Station) :
    (s.writeStation st r).temperatureInUse = s.temperatureInUse := rfl
@[simp] theorem State.writeStation_placements (st : StationId) (r : Station) :
    (s.writeStation st r).placements = s.placements := rfl
@[simp] theorem State.writeStation_feeds (st : StationId) (r : Station) : (s.writeStation st r).feeds = s.feeds := rfl
@[simp] theorem State.writeStation_queue (st : StationId) (r : Station) : (s.writeStation st r).queue = s.queue := rfl
@[simp] theorem State.writeStation_sources (st : StationId) (r : Station) :
    (s.writeStation st r).sources = s.sources := rfl
@[simp] theorem State.writeStation_channels (st : StationId) (r : Station) :
    (s.writeStation st r).channels = s.channels := rfl
@[simp] theorem State.writeStation_blockCount (st : StationId) (r : Station) :
    (s.writeStation st r).blockCount = s.blockCount := rfl
@[simp] theorem State.writeStation_detectors (st : StationId) (r : Station) :
    (s.writeStation st r).detectors = s.detectors := rfl
@[simp] theorem State.writeStation_notches (st : StationId) (r : Station) :
    (s.writeStation st r).notches = s.notches := rfl
@[simp] theorem State.writeStation_sections (st : StationId) (r : Station) :
    (s.writeStation st r).sections = s.sections := rfl
@[simp] theorem State.writeStation_windowCount (st : StationId) (r : Station) :
    (s.writeStation st r).windowCount = s.windowCount := rfl
@[simp] theorem State.writeStation_secondCount (st : StationId) (r : Station) :
    (s.writeStation st r).secondCount = s.secondCount := rfl
@[simp] theorem State.writeStation_stepped (st : StationId) (r : Station) :
    (s.writeStation st r).stepped = s.stepped := rfl
@[simp] theorem State.writeStation_mixers (st : StationId) (r : Station) :
    (s.writeStation st r).mixers = s.mixers := rfl
@[simp] theorem State.writeStation_portA (st : StationId) (r : Station) : (s.writeStation st r).portA = s.portA := rfl
@[simp] theorem State.writeStation_portB (st : StationId) (r : Station) : (s.writeStation st r).portB = s.portB := rfl
@[simp] theorem State.writeStation_cues (st : StationId) (r : Station) : (s.writeStation st r).cues = s.cues := rfl
@[simp] theorem State.writeStation_clock (st : StationId) (r : Station) : (s.writeStation st r).clock = s.clock := rfl
@[simp] theorem State.writeStation_link (st : StationId) (r : Station) : (s.writeStation st r).link = s.link := rfl
@[simp] theorem State.writeStation_service (st : StationId) (r : Station) :
    (s.writeStation st r).service = s.service := rfl
@[simp] theorem State.writeStation_freeSerial (st : StationId) (r : Station) :
    (s.writeStation st r).freeSerial = s.freeSerial := rfl
@[simp] theorem State.writeStation_pending (st : StationId) (r : Station) :
    (s.writeStation st r).pending = s.pending := rfl

/-! ### writeZone -/

@[simp] theorem State.writeZone_stations (z : Zone) (r : ZoneRecord) : (s.writeZone z r).stations = s.stations := rfl
@[simp] theorem State.writeZone_zones (z : Zone) (r : ZoneRecord) : (s.writeZone z r).zones = vset s.zones z r := rfl
@[simp] theorem State.writeZone_areas (z : Zone) (r : ZoneRecord) : (s.writeZone z r).areas = s.areas := rfl
@[simp] theorem State.writeZone_timing (z : Zone) (r : ZoneRecord) : (s.writeZone z r).timing = s.timing := rfl
@[simp] theorem State.writeZone_reportedTemperature (z : Zone) (r : ZoneRecord) :
    (s.writeZone z r).reportedTemperature = s.reportedTemperature := rfl
@[simp] theorem State.writeZone_temperatureInUse (z : Zone) (r : ZoneRecord) :
    (s.writeZone z r).temperatureInUse = s.temperatureInUse := rfl
@[simp] theorem State.writeZone_placements (z : Zone) (r : ZoneRecord) :
    (s.writeZone z r).placements = s.placements := rfl
@[simp] theorem State.writeZone_feeds (z : Zone) (r : ZoneRecord) : (s.writeZone z r).feeds = s.feeds := rfl
@[simp] theorem State.writeZone_queue (z : Zone) (r : ZoneRecord) : (s.writeZone z r).queue = s.queue := rfl
@[simp] theorem State.writeZone_sources (z : Zone) (r : ZoneRecord) : (s.writeZone z r).sources = s.sources := rfl
@[simp] theorem State.writeZone_channels (z : Zone) (r : ZoneRecord) : (s.writeZone z r).channels = s.channels := rfl
@[simp] theorem State.writeZone_blockCount (z : Zone) (r : ZoneRecord) :
    (s.writeZone z r).blockCount = s.blockCount := rfl
@[simp] theorem State.writeZone_detectors (z : Zone) (r : ZoneRecord) : (s.writeZone z r).detectors = s.detectors := rfl
@[simp] theorem State.writeZone_notches (z : Zone) (r : ZoneRecord) : (s.writeZone z r).notches = s.notches := rfl
@[simp] theorem State.writeZone_sections (z : Zone) (r : ZoneRecord) : (s.writeZone z r).sections = s.sections := rfl
@[simp] theorem State.writeZone_windowCount (z : Zone) (r : ZoneRecord) :
    (s.writeZone z r).windowCount = s.windowCount := rfl
@[simp] theorem State.writeZone_secondCount (z : Zone) (r : ZoneRecord) :
    (s.writeZone z r).secondCount = s.secondCount := rfl
@[simp] theorem State.writeZone_stepped (z : Zone) (r : ZoneRecord) :
    (s.writeZone z r).stepped = s.stepped := rfl
@[simp] theorem State.writeZone_mixers (z : Zone) (r : ZoneRecord) :
    (s.writeZone z r).mixers = if (vget s.zones z).mute = r.mute then s.mixers else vset s.mixers z ((vget s.mixers z).muteTo r.mute) := rfl
@[simp] theorem State.writeZone_portA (z : Zone) (r : ZoneRecord) : (s.writeZone z r).portA = s.portA := rfl
@[simp] theorem State.writeZone_portB (z : Zone) (r : ZoneRecord) : (s.writeZone z r).portB = s.portB := rfl
@[simp] theorem State.writeZone_cues (z : Zone) (r : ZoneRecord) : (s.writeZone z r).cues = s.cues := rfl
@[simp] theorem State.writeZone_clock (z : Zone) (r : ZoneRecord) : (s.writeZone z r).clock = s.clock := rfl
@[simp] theorem State.writeZone_link (z : Zone) (r : ZoneRecord) : (s.writeZone z r).link = s.link := rfl
@[simp] theorem State.writeZone_service (z : Zone) (r : ZoneRecord) : (s.writeZone z r).service = s.service := rfl
@[simp] theorem State.writeZone_freeSerial (z : Zone) (r : ZoneRecord) :
    (s.writeZone z r).freeSerial = s.freeSerial := rfl
@[simp] theorem State.writeZone_pending (z : Zone) (r : ZoneRecord) : (s.writeZone z r).pending = s.pending := rfl

/-! ### storeGateMode -/

@[simp] theorem State.storeGateMode_stations (src : Source) (m : GateMode) :
    (s.storeGateMode src m).stations = s.stations := rfl
@[simp] theorem State.storeGateMode_zones (src : Source) (m : GateMode) : (s.storeGateMode src m).zones = s.zones := rfl
@[simp] theorem State.storeGateMode_areas (src : Source) (m : GateMode) : (s.storeGateMode src m).areas = s.areas := rfl
@[simp] theorem State.storeGateMode_timing (src : Source) (m : GateMode) :
    (s.storeGateMode src m).timing = s.timing := rfl
@[simp] theorem State.storeGateMode_reportedTemperature (src : Source) (m : GateMode) :
    (s.storeGateMode src m).reportedTemperature = s.reportedTemperature := rfl
@[simp] theorem State.storeGateMode_temperatureInUse (src : Source) (m : GateMode) :
    (s.storeGateMode src m).temperatureInUse = s.temperatureInUse := rfl
@[simp] theorem State.storeGateMode_placements (src : Source) (m : GateMode) :
    (s.storeGateMode src m).placements = s.placements := rfl
@[simp] theorem State.storeGateMode_feeds (src : Source) (m : GateMode) : (s.storeGateMode src m).feeds = s.feeds := rfl
@[simp] theorem State.storeGateMode_queue (src : Source) (m : GateMode) : (s.storeGateMode src m).queue = s.queue := rfl
@[simp] theorem State.storeGateMode_sources (src : Source) (m : GateMode) :
    (s.storeGateMode src m).sources = vset s.sources src { vget s.sources src with gateMode := m } := rfl
@[simp] theorem State.storeGateMode_channels (src : Source) (m : GateMode) :
    (s.storeGateMode src m).channels = s.channels := rfl
@[simp] theorem State.storeGateMode_blockCount (src : Source) (m : GateMode) :
    (s.storeGateMode src m).blockCount = s.blockCount := rfl
@[simp] theorem State.storeGateMode_detectors (src : Source) (m : GateMode) :
    (s.storeGateMode src m).detectors = s.detectors := rfl
@[simp] theorem State.storeGateMode_notches (src : Source) (m : GateMode) :
    (s.storeGateMode src m).notches = s.notches := rfl
@[simp] theorem State.storeGateMode_sections (src : Source) (m : GateMode) :
    (s.storeGateMode src m).sections = s.sections := rfl
@[simp] theorem State.storeGateMode_windowCount (src : Source) (m : GateMode) :
    (s.storeGateMode src m).windowCount = s.windowCount := rfl
@[simp] theorem State.storeGateMode_secondCount (src : Source) (m : GateMode) :
    (s.storeGateMode src m).secondCount = s.secondCount := rfl
@[simp] theorem State.storeGateMode_stepped (src : Source) (m : GateMode) :
    (s.storeGateMode src m).stepped = s.stepped := rfl
@[simp] theorem State.storeGateMode_mixers (src : Source) (m : GateMode) :
    (s.storeGateMode src m).mixers = s.mixers := rfl
@[simp] theorem State.storeGateMode_portA (src : Source) (m : GateMode) : (s.storeGateMode src m).portA = s.portA := rfl
@[simp] theorem State.storeGateMode_portB (src : Source) (m : GateMode) : (s.storeGateMode src m).portB = s.portB := rfl
@[simp] theorem State.storeGateMode_cues (src : Source) (m : GateMode) : (s.storeGateMode src m).cues = s.cues := rfl
@[simp] theorem State.storeGateMode_clock (src : Source) (m : GateMode) : (s.storeGateMode src m).clock = s.clock := rfl
@[simp] theorem State.storeGateMode_link (src : Source) (m : GateMode) : (s.storeGateMode src m).link = s.link := rfl
@[simp] theorem State.storeGateMode_service (src : Source) (m : GateMode) :
    (s.storeGateMode src m).service = s.service := rfl
@[simp] theorem State.storeGateMode_freeSerial (src : Source) (m : GateMode) :
    (s.storeGateMode src m).freeSerial = s.freeSerial := rfl
@[simp] theorem State.storeGateMode_pending (src : Source) (m : GateMode) :
    (s.storeGateMode src m).pending = s.pending := rfl

/-! ### setService -/

@[simp] theorem State.setService_stations (st : ServiceState) (r : Ramp) :
    (s.setService st r).stations = s.stations := rfl
@[simp] theorem State.setService_zones (st : ServiceState) (r : Ramp) : (s.setService st r).zones = s.zones := rfl
@[simp] theorem State.setService_areas (st : ServiceState) (r : Ramp) : (s.setService st r).areas = s.areas := rfl
@[simp] theorem State.setService_timing (st : ServiceState) (r : Ramp) : (s.setService st r).timing = s.timing := rfl
@[simp] theorem State.setService_reportedTemperature (st : ServiceState) (r : Ramp) :
    (s.setService st r).reportedTemperature = s.reportedTemperature := rfl
@[simp] theorem State.setService_temperatureInUse (st : ServiceState) (r : Ramp) :
    (s.setService st r).temperatureInUse = s.temperatureInUse := rfl
@[simp] theorem State.setService_placements (st : ServiceState) (r : Ramp) :
    (s.setService st r).placements = s.placements := rfl
@[simp] theorem State.setService_feeds (st : ServiceState) (r : Ramp) : (s.setService st r).feeds = s.feeds := rfl
@[simp] theorem State.setService_queue (st : ServiceState) (r : Ramp) : (s.setService st r).queue = s.queue := rfl
@[simp] theorem State.setService_sources (st : ServiceState) (r : Ramp) : (s.setService st r).sources = s.sources := rfl
@[simp] theorem State.setService_channels (st : ServiceState) (r : Ramp) :
    (s.setService st r).channels = s.channels := rfl
@[simp] theorem State.setService_blockCount (st : ServiceState) (r : Ramp) :
    (s.setService st r).blockCount = s.blockCount := rfl
@[simp] theorem State.setService_detectors (st : ServiceState) (r : Ramp) :
    (s.setService st r).detectors = s.detectors := rfl
@[simp] theorem State.setService_notches (st : ServiceState) (r : Ramp) : (s.setService st r).notches = s.notches := rfl
@[simp] theorem State.setService_sections (st : ServiceState) (r : Ramp) :
    (s.setService st r).sections = s.sections := rfl
@[simp] theorem State.setService_windowCount (st : ServiceState) (r : Ramp) :
    (s.setService st r).windowCount = s.windowCount := rfl
@[simp] theorem State.setService_secondCount (st : ServiceState) (r : Ramp) :
    (s.setService st r).secondCount = s.secondCount := rfl
@[simp] theorem State.setService_stepped (st : ServiceState) (r : Ramp) :
    (s.setService st r).stepped = s.stepped := rfl
@[simp] theorem State.setService_mixers (st : ServiceState) (r : Ramp) : (s.setService st r).mixers = s.mixers := rfl
@[simp] theorem State.setService_portA (st : ServiceState) (r : Ramp) : (s.setService st r).portA = s.portA := rfl
@[simp] theorem State.setService_portB (st : ServiceState) (r : Ramp) : (s.setService st r).portB = s.portB := rfl
@[simp] theorem State.setService_cues (st : ServiceState) (r : Ramp) : (s.setService st r).cues = s.cues := rfl
@[simp] theorem State.setService_clock (st : ServiceState) (r : Ramp) : (s.setService st r).clock = s.clock := rfl
@[simp] theorem State.setService_link (st : ServiceState) (r : Ramp) : (s.setService st r).link = s.link := rfl
@[simp] theorem State.setService_service (st : ServiceState) (r : Ramp) :
    (s.setService st r).service = { s.service with state := st, ramp := r } := rfl
@[simp] theorem State.setService_freeSerial (st : ServiceState) (r : Ramp) :
    (s.setService st r).freeSerial = s.freeSerial := rfl
@[simp] theorem State.setService_pending (st : ServiceState) (r : Ramp) : (s.setService st r).pending = s.pending := rfl

/-! ### setClock -/

@[simp] theorem State.setClock_stations (c : ClockUnit) : (s.setClock c).stations = s.stations := rfl
@[simp] theorem State.setClock_zones (c : ClockUnit) : (s.setClock c).zones = s.zones := rfl
@[simp] theorem State.setClock_areas (c : ClockUnit) : (s.setClock c).areas = s.areas := rfl
@[simp] theorem State.setClock_timing (c : ClockUnit) : (s.setClock c).timing = s.timing := rfl
@[simp] theorem State.setClock_reportedTemperature (c : ClockUnit) :
    (s.setClock c).reportedTemperature = s.reportedTemperature := rfl
@[simp] theorem State.setClock_temperatureInUse (c : ClockUnit) :
    (s.setClock c).temperatureInUse = s.temperatureInUse := rfl
@[simp] theorem State.setClock_placements (c : ClockUnit) : (s.setClock c).placements = s.placements := rfl
@[simp] theorem State.setClock_feeds (c : ClockUnit) : (s.setClock c).feeds = s.feeds := rfl
@[simp] theorem State.setClock_queue (c : ClockUnit) : (s.setClock c).queue = s.queue := rfl
@[simp] theorem State.setClock_sources (c : ClockUnit) : (s.setClock c).sources = s.sources := rfl
@[simp] theorem State.setClock_channels (c : ClockUnit) : (s.setClock c).channels = s.channels := rfl
@[simp] theorem State.setClock_blockCount (c : ClockUnit) : (s.setClock c).blockCount = s.blockCount := rfl
@[simp] theorem State.setClock_detectors (c : ClockUnit) : (s.setClock c).detectors = s.detectors := rfl
@[simp] theorem State.setClock_notches (c : ClockUnit) : (s.setClock c).notches = s.notches := rfl
@[simp] theorem State.setClock_sections (c : ClockUnit) : (s.setClock c).sections = s.sections := rfl
@[simp] theorem State.setClock_windowCount (c : ClockUnit) : (s.setClock c).windowCount = s.windowCount := rfl
@[simp] theorem State.setClock_secondCount (c : ClockUnit) : (s.setClock c).secondCount = s.secondCount := rfl
@[simp] theorem State.setClock_stepped (c : ClockUnit) : (s.setClock c).stepped = s.stepped := rfl
@[simp] theorem State.setClock_mixers (c : ClockUnit) : (s.setClock c).mixers = s.mixers := rfl
@[simp] theorem State.setClock_portA (c : ClockUnit) : (s.setClock c).portA = s.portA := rfl
@[simp] theorem State.setClock_portB (c : ClockUnit) : (s.setClock c).portB = s.portB := rfl
@[simp] theorem State.setClock_cues (c : ClockUnit) : (s.setClock c).cues = s.cues := rfl
@[simp] theorem State.setClock_clock (c : ClockUnit) : (s.setClock c).clock = c := rfl
@[simp] theorem State.setClock_link (c : ClockUnit) : (s.setClock c).link = s.link := rfl
@[simp] theorem State.setClock_service (c : ClockUnit) : (s.setClock c).service = s.service := rfl
@[simp] theorem State.setClock_freeSerial (c : ClockUnit) : (s.setClock c).freeSerial = s.freeSerial := rfl
@[simp] theorem State.setClock_pending (c : ClockUnit) : (s.setClock c).pending = s.pending := rfl

/-! ### enterClockState -/

@[simp] theorem State.enterClockState_stations (st : ClockState) : (s.enterClockState st).stations = s.stations := rfl
@[simp] theorem State.enterClockState_zones (st : ClockState) : (s.enterClockState st).zones = s.zones := rfl
@[simp] theorem State.enterClockState_areas (st : ClockState) : (s.enterClockState st).areas = s.areas := rfl
@[simp] theorem State.enterClockState_timing (st : ClockState) : (s.enterClockState st).timing = s.timing := rfl
@[simp] theorem State.enterClockState_reportedTemperature (st : ClockState) :
    (s.enterClockState st).reportedTemperature = s.reportedTemperature := rfl
@[simp] theorem State.enterClockState_temperatureInUse (st : ClockState) :
    (s.enterClockState st).temperatureInUse = s.temperatureInUse := rfl
@[simp] theorem State.enterClockState_placements (st : ClockState) :
    (s.enterClockState st).placements = s.placements := rfl
@[simp] theorem State.enterClockState_feeds (st : ClockState) : (s.enterClockState st).feeds = s.feeds := rfl
@[simp] theorem State.enterClockState_queue (st : ClockState) : (s.enterClockState st).queue = s.queue := rfl
@[simp] theorem State.enterClockState_sources (st : ClockState) : (s.enterClockState st).sources = s.sources := rfl
@[simp] theorem State.enterClockState_channels (st : ClockState) : (s.enterClockState st).channels = s.channels := rfl
@[simp] theorem State.enterClockState_blockCount (st : ClockState) :
    (s.enterClockState st).blockCount = s.blockCount := rfl
@[simp] theorem State.enterClockState_detectors (st : ClockState) :
    (s.enterClockState st).detectors = s.detectors := rfl
@[simp] theorem State.enterClockState_notches (st : ClockState) : (s.enterClockState st).notches = s.notches := rfl
@[simp] theorem State.enterClockState_sections (st : ClockState) : (s.enterClockState st).sections = s.sections := rfl
@[simp] theorem State.enterClockState_windowCount (st : ClockState) :
    (s.enterClockState st).windowCount = s.windowCount := rfl
@[simp] theorem State.enterClockState_secondCount (st : ClockState) :
    (s.enterClockState st).secondCount = s.secondCount := rfl
@[simp] theorem State.enterClockState_stepped (st : ClockState) :
    (s.enterClockState st).stepped = s.stepped := rfl
@[simp] theorem State.enterClockState_mixers (st : ClockState) : (s.enterClockState st).mixers = s.mixers := rfl
@[simp] theorem State.enterClockState_portA (st : ClockState) : (s.enterClockState st).portA = s.portA := rfl
@[simp] theorem State.enterClockState_portB (st : ClockState) : (s.enterClockState st).portB = s.portB := rfl
@[simp] theorem State.enterClockState_cues (st : ClockState) : (s.enterClockState st).cues = s.cues := rfl
@[simp] theorem State.enterClockState_clock (st : ClockState) :
    (s.enterClockState st).clock = { s.clock with state := st, presence := 0, missed := 0, frameStarted := false } := rfl
@[simp] theorem State.enterClockState_link (st : ClockState) :
    (s.enterClockState st).link = { s.link with flags := s.link.flags ||| EventFlag.clock.bit } := rfl
@[simp] theorem State.enterClockState_service (st : ClockState) : (s.enterClockState st).service = s.service := rfl
@[simp] theorem State.enterClockState_freeSerial (st : ClockState) :
    (s.enterClockState st).freeSerial = s.freeSerial := rfl
@[simp] theorem State.enterClockState_pending (st : ClockState) : (s.enterClockState st).pending = s.pending := rfl

/-! ### trigger -/

@[simp] theorem State.trigger_stations (c : RestartCause) : (s.trigger c).stations = s.stations := rfl
@[simp] theorem State.trigger_zones (c : RestartCause) : (s.trigger c).zones = s.zones := rfl
@[simp] theorem State.trigger_areas (c : RestartCause) : (s.trigger c).areas = s.areas := rfl
@[simp] theorem State.trigger_timing (c : RestartCause) : (s.trigger c).timing = s.timing := rfl
@[simp] theorem State.trigger_reportedTemperature (c : RestartCause) :
    (s.trigger c).reportedTemperature = s.reportedTemperature := rfl
@[simp] theorem State.trigger_temperatureInUse (c : RestartCause) :
    (s.trigger c).temperatureInUse = s.temperatureInUse := rfl
@[simp] theorem State.trigger_placements (c : RestartCause) : (s.trigger c).placements = s.placements := rfl
@[simp] theorem State.trigger_feeds (c : RestartCause) : (s.trigger c).feeds = s.feeds := rfl
@[simp] theorem State.trigger_queue (c : RestartCause) : (s.trigger c).queue = s.queue := rfl
@[simp] theorem State.trigger_sources (c : RestartCause) : (s.trigger c).sources = s.sources := rfl
@[simp] theorem State.trigger_channels (c : RestartCause) : (s.trigger c).channels = s.channels := rfl
@[simp] theorem State.trigger_blockCount (c : RestartCause) : (s.trigger c).blockCount = s.blockCount := rfl
@[simp] theorem State.trigger_detectors (c : RestartCause) : (s.trigger c).detectors = s.detectors := rfl
@[simp] theorem State.trigger_notches (c : RestartCause) : (s.trigger c).notches = s.notches := rfl
@[simp] theorem State.trigger_sections (c : RestartCause) : (s.trigger c).sections = s.sections := rfl
@[simp] theorem State.trigger_windowCount (c : RestartCause) : (s.trigger c).windowCount = s.windowCount := rfl
@[simp] theorem State.trigger_secondCount (c : RestartCause) : (s.trigger c).secondCount = s.secondCount := rfl
@[simp] theorem State.trigger_stepped (c : RestartCause) : (s.trigger c).stepped = s.stepped := rfl
@[simp] theorem State.trigger_mixers (c : RestartCause) : (s.trigger c).mixers = s.mixers := rfl
@[simp] theorem State.trigger_portA (c : RestartCause) : (s.trigger c).portA = s.portA := rfl
@[simp] theorem State.trigger_portB (c : RestartCause) : (s.trigger c).portB = s.portB := rfl
@[simp] theorem State.trigger_cues (c : RestartCause) : (s.trigger c).cues = s.cues := rfl
@[simp] theorem State.trigger_clock (c : RestartCause) : (s.trigger c).clock = s.clock := rfl
@[simp] theorem State.trigger_link (c : RestartCause) :
    (s.trigger c).link = { s.link with receiveBuffer := [], transaction := s.link.transaction.map fun _ => ⟨[], true⟩ } := rfl
@[simp] theorem State.trigger_service (c : RestartCause) :
    (s.trigger c).service = { s.service with restart := some c, ramp := quietRamp s.service.ramp.value } := rfl
@[simp] theorem State.trigger_freeSerial (c : RestartCause) : (s.trigger c).freeSerial = s.freeSerial := rfl
@[simp] theorem State.trigger_pending (c : RestartCause) : (s.trigger c).pending = s.pending := rfl

/-! ### clearMeters -/

@[simp] theorem State.clearMeters_stations : (s.clearMeters).stations = s.stations := rfl
@[simp] theorem State.clearMeters_zones : (s.clearMeters).zones = s.zones := rfl
@[simp] theorem State.clearMeters_areas : (s.clearMeters).areas = s.areas := rfl
@[simp] theorem State.clearMeters_timing : (s.clearMeters).timing = s.timing := rfl
@[simp] theorem State.clearMeters_reportedTemperature :
    (s.clearMeters).reportedTemperature = s.reportedTemperature := rfl
@[simp] theorem State.clearMeters_temperatureInUse : (s.clearMeters).temperatureInUse = s.temperatureInUse := rfl
@[simp] theorem State.clearMeters_placements : (s.clearMeters).placements = s.placements := rfl
@[simp] theorem State.clearMeters_feeds : (s.clearMeters).feeds = s.feeds := rfl
@[simp] theorem State.clearMeters_queue : (s.clearMeters).queue = s.queue := rfl
@[simp] theorem State.clearMeters_sources : (s.clearMeters).sources = s.sources := rfl
@[simp] theorem State.clearMeters_channels : (s.clearMeters).channels = s.channels := rfl
@[simp] theorem State.clearMeters_blockCount : (s.clearMeters).blockCount = s.blockCount := rfl
@[simp] theorem State.clearMeters_detectors : (s.clearMeters).detectors = s.detectors := rfl
@[simp] theorem State.clearMeters_notches : (s.clearMeters).notches = s.notches := rfl
@[simp] theorem State.clearMeters_sections : (s.clearMeters).sections = s.sections := rfl
@[simp] theorem State.clearMeters_windowCount : (s.clearMeters).windowCount = s.windowCount := rfl
@[simp] theorem State.clearMeters_secondCount : (s.clearMeters).secondCount = s.secondCount := rfl
@[simp] theorem State.clearMeters_stepped : (s.clearMeters).stepped = s.stepped := rfl
@[simp] theorem State.clearMeters_mixers :
    (s.clearMeters).mixers =
    vgen fun z => { vget s.mixers z with peak := -240, clip := false } := rfl
@[simp] theorem State.clearMeters_portA : (s.clearMeters).portA = s.portA := rfl
@[simp] theorem State.clearMeters_portB : (s.clearMeters).portB = s.portB := rfl
@[simp] theorem State.clearMeters_cues : (s.clearMeters).cues = s.cues := rfl
@[simp] theorem State.clearMeters_clock : (s.clearMeters).clock = s.clock := rfl
@[simp] theorem State.clearMeters_link : (s.clearMeters).link = s.link := rfl
@[simp] theorem State.clearMeters_service : (s.clearMeters).service = s.service := rfl
@[simp] theorem State.clearMeters_freeSerial : (s.clearMeters).freeSerial = s.freeSerial := rfl
@[simp] theorem State.clearMeters_pending : (s.clearMeters).pending = s.pending := rfl

end Sys2Proof.Machine
end

