-- ==== Sys2Proof/Laws/Tables.lean ====
section
/-! SUPPORT. Reading the tables through their accessors after each named update, and the lists of all names. -/

namespace Sys2Proof

@[simp] theorem mem_allSources (src : Source) : src ∈ allSources := List.mem_finRange src

@[simp] theorem mem_allZones (z : Zone) : z ∈ allZones := List.mem_finRange z

@[simp] theorem mem_allLines (l : Line) : l ∈ allLines := List.mem_finRange l

@[simp] theorem mem_allSlots (i : SectionSlot) : i ∈ allSlots := List.mem_finRange i

@[simp] theorem mem_allBands (b : Band) : b ∈ allBands := List.mem_finRange b

@[simp] theorem mem_allFeeds (k : FeedKey) : k ∈ allFeeds := by
  simp [allFeeds]

theorem nodup_allSources : allSources.Nodup := List.nodup_finRange 16

theorem nodup_allZones : allZones.Nodup := List.nodup_finRange 24

theorem nodup_allLines : allLines.Nodup := List.nodup_finRange 8

theorem nodup_allSlots : allSlots.Nodup := List.nodup_finRange 16

theorem nodup_allFeeds : allFeeds.Nodup := by
  unfold allFeeds
  rw [List.nodup_flatMap]
  refine ⟨fun src _ => nodup_allZones.map fun a b h => (Prod.mk.inj h).2, ?_⟩
  refine nodup_allSources.pairwise_of_forall_ne ?_
  intro a _ b _ hab
  simp only [Function.onFun, List.disjoint_left, List.mem_map, not_exists, not_and]
  rintro _ ⟨z, -, rfl⟩ z' -
  intro h
  exact hab (Prod.mk.inj h).1.symm

namespace Machine

variable (s : State)

/-! ### The feeds -/

theorem State.feed_setFeed (k j : FeedKey) (f : Option Feed) :
    (s.setFeed k f).feed j = if k = j then f else s.feed j := by
  obtain ⟨a, b⟩ := k
  obtain ⟨c, d⟩ := j
  simp only [State.feed, State.setFeed_feeds, vget_vset, Prod.mk.injEq]
  by_cases h : a = c
  · subst h
    by_cases h' : b = d <;> simp [vget_vset, h']
  · simp [h]

@[simp] theorem State.feed_setFeed_same (k : FeedKey) (f : Option Feed) : (s.setFeed k f).feed k = f := by
  simp [State.feed_setFeed]

theorem State.feed_setFeed_other {k j : FeedKey} (f : Option Feed) (h : k ≠ j) :
    (s.setFeed k f).feed j = s.feed j := by
  simp [State.feed_setFeed, h]

@[simp] theorem State.feed_refreshGains (k : FeedKey) : s.refreshGains.feed k =
    (s.feed k).map fun f => f.smoothed (s.effectiveGain k.2 f) := by
  simp [State.feed]

theorem State.feed_release (k j : FeedKey) : (s.release k).feed j = if k = j then none else s.feed j :=
  State.feed_setFeed s k j none

/-- Two parts with the same feed table have the same feeds. -/
theorem State.feed_congr {t : State} (h : t.feeds = s.feeds) : t.feed = s.feed := by
  funext k
  simp [State.feed, h]

/-- Two parts with equal feeds have the same feed table. -/
theorem State.feeds_ext {t : State} (h : ∀ k, t.feed k = s.feed k) : t.feeds = s.feeds := by
  apply vext
  intro src
  apply vext
  intro z
  exact h (src, z)

/-! ### The placements and gates -/

theorem State.placement_setPlacement (a b : Source) (p : Option Placement) :
    (s.setPlacement a p).placement b = if a = b then p else s.placement b := by
  simp [State.placement, vget_vset]

@[simp] theorem State.placement_setPlacement_same (a : Source) (p : Option Placement) :
    (s.setPlacement a p).placement a = p := by
  simp [State.placement_setPlacement]

theorem State.gate_setChannel (a b : Source) (c : Channel) :
    (s.setChannel a c).gate b = if a = b then c.gate else s.gate b := by
  simp only [State.gate, State.setChannel_channels, vget_vset]
  split <;> rfl

/-! ### Reads that an update of another table leaves alone -/

@[simp] theorem State.placement_setFeed (k : FeedKey) (f : Option Feed) (src' : Source) :
    (s.setFeed k f).placement src' = s.placement src' := rfl

@[simp] theorem State.gate_setFeed (k : FeedKey) (f : Option Feed) (src' : Source) :
    (s.setFeed k f).gate src' = s.gate src' := rfl

@[simp] theorem State.feed_setPlacement (src : Source) (p : Option Placement) (j : FeedKey) :
    (s.setPlacement src p).feed j = s.feed j := rfl

@[simp] theorem State.gate_setPlacement (src : Source) (p : Option Placement) (src' : Source) :
    (s.setPlacement src p).gate src' = s.gate src' := rfl

@[simp] theorem State.feed_setChannel (src : Source) (c : Channel) (j : FeedKey) :
    (s.setChannel src c).feed j = s.feed j := rfl

@[simp] theorem State.placement_setChannel (src : Source) (c : Channel) (src' : Source) :
    (s.setChannel src c).placement src' = s.placement src' := rfl

@[simp] theorem State.feed_setDetector (src : Source) (d : Detector) (j : FeedKey) :
    (s.setDetector src d).feed j = s.feed j := rfl

@[simp] theorem State.placement_setDetector (src : Source) (d : Detector) (src' : Source) :
    (s.setDetector src d).placement src' = s.placement src' := rfl

@[simp] theorem State.gate_setDetector (src : Source) (d : Detector) (src' : Source) :
    (s.setDetector src d).gate src' = s.gate src' := rfl

@[simp] theorem State.feed_setNotches (src : Source) (t : List Notch) (j : FeedKey) :
    (s.setNotches src t).feed j = s.feed j := rfl

@[simp] theorem State.placement_setNotches (src : Source) (t : List Notch) (src' : Source) :
    (s.setNotches src t).placement src' = s.placement src' := rfl

@[simp] theorem State.gate_setNotches (src : Source) (t : List Notch) (src' : Source) :
    (s.setNotches src t).gate src' = s.gate src' := rfl

@[simp] theorem State.feed_setSections (src : Source) (t : Vector (Option NotchSection) 16) (j : FeedKey) :
    (s.setSections src t).feed j = s.feed j := rfl

@[simp] theorem State.placement_setSections (src : Source) (t : Vector (Option NotchSection) 16) (src' : Source) :
    (s.setSections src t).placement src' = s.placement src' := rfl

@[simp] theorem State.gate_setSections (src : Source) (t : Vector (Option NotchSection) 16) (src' : Source) :
    (s.setSections src t).gate src' = s.gate src' := rfl

@[simp] theorem State.feed_setTable (src : Source) (t : List Notch) (secs : Vector (Option NotchSection) 16) (j : FeedKey) :
    (s.setTable src t secs).feed j = s.feed j := rfl

@[simp] theorem State.placement_setTable (src : Source) (t : List Notch) (secs : Vector (Option NotchSection) 16) (src' : Source) :
    (s.setTable src t secs).placement src' = s.placement src' := rfl

@[simp] theorem State.gate_setTable (src : Source) (t : List Notch) (secs : Vector (Option NotchSection) 16) (src' : Source) :
    (s.setTable src t secs).gate src' = s.gate src' := rfl

@[simp] theorem State.feed_setCue (l : Line) (c : CueLine) (j : FeedKey) : (s.setCue l c).feed j = s.feed j := rfl

@[simp] theorem State.placement_setCue (l : Line) (c : CueLine) (src' : Source) :
    (s.setCue l c).placement src' = s.placement src' := rfl

@[simp] theorem State.gate_setCue (l : Line) (c : CueLine) (src' : Source) :
    (s.setCue l c).gate src' = s.gate src' := rfl

@[simp] theorem State.placement_refreshGains (src' : Source) :
    (s.refreshGains).placement src' = s.placement src' := rfl

@[simp] theorem State.gate_refreshGains (src' : Source) : (s.refreshGains).gate src' = s.gate src' := rfl

@[simp] theorem State.feed_raise (f : EventFlag) (j : FeedKey) : (s.raise f).feed j = s.feed j := rfl

@[simp] theorem State.placement_raise (f : EventFlag) (src' : Source) :
    (s.raise f).placement src' = s.placement src' := rfl

@[simp] theorem State.gate_raise (f : EventFlag) (src' : Source) : (s.raise f).gate src' = s.gate src' := rfl

@[simp] theorem State.feed_lower (f : EventFlag) (j : FeedKey) : (s.lower f).feed j = s.feed j := rfl

@[simp] theorem State.placement_lower (f : EventFlag) (src' : Source) :
    (s.lower f).placement src' = s.placement src' := rfl

@[simp] theorem State.gate_lower (f : EventFlag) (src' : Source) : (s.lower f).gate src' = s.gate src' := rfl

@[simp] theorem State.feed_unqueue (k : FeedKey) (j : FeedKey) : (s.unqueue k).feed j = s.feed j := rfl

@[simp] theorem State.placement_unqueue (k : FeedKey) (src' : Source) :
    (s.unqueue k).placement src' = s.placement src' := rfl

@[simp] theorem State.gate_unqueue (k : FeedKey) (src' : Source) : (s.unqueue k).gate src' = s.gate src' := rfl

@[simp] theorem State.placement_release (k : FeedKey) (src' : Source) :
    (s.release k).placement src' = s.placement src' := rfl

@[simp] theorem State.gate_release (k : FeedKey) (src' : Source) : (s.release k).gate src' = s.gate src' := rfl

@[simp] theorem State.feed_respond (r : ResultCode) (e : Byte) (p : List Byte) (j : FeedKey) :
    (s.respond r e p).feed j = s.feed j := rfl

@[simp] theorem State.placement_respond (r : ResultCode) (e : Byte) (p : List Byte) (src' : Source) :
    (s.respond r e p).placement src' = s.placement src' := rfl

@[simp] theorem State.gate_respond (r : ResultCode) (e : Byte) (p : List Byte) (src' : Source) :
    (s.respond r e p).gate src' = s.gate src' := rfl

@[simp] theorem State.feed_endTransaction (j : FeedKey) : (s.endTransaction).feed j = s.feed j := rfl

@[simp] theorem State.placement_endTransaction (src' : Source) :
    (s.endTransaction).placement src' = s.placement src' := rfl

@[simp] theorem State.gate_endTransaction (src' : Source) : (s.endTransaction).gate src' = s.gate src' := rfl

@[simp] theorem State.feed_writeStation (st : StationId) (r : Station) (j : FeedKey) :
    (s.writeStation st r).feed j = s.feed j := rfl

@[simp] theorem State.placement_writeStation (st : StationId) (r : Station) (src' : Source) :
    (s.writeStation st r).placement src' = s.placement src' := rfl

@[simp] theorem State.gate_writeStation (st : StationId) (r : Station) (src' : Source) :
    (s.writeStation st r).gate src' = s.gate src' := rfl

@[simp] theorem State.feed_writeZone (z : Zone) (r : ZoneRecord) (j : FeedKey) :
    (s.writeZone z r).feed j = s.feed j := rfl

@[simp] theorem State.placement_writeZone (z : Zone) (r : ZoneRecord) (src' : Source) :
    (s.writeZone z r).placement src' = s.placement src' := rfl

@[simp] theorem State.gate_writeZone (z : Zone) (r : ZoneRecord) (src' : Source) :
    (s.writeZone z r).gate src' = s.gate src' := rfl

@[simp] theorem State.feed_storeGateMode (src : Source) (m : GateMode) (j : FeedKey) :
    (s.storeGateMode src m).feed j = s.feed j := rfl

@[simp] theorem State.placement_storeGateMode (src : Source) (m : GateMode) (src' : Source) :
    (s.storeGateMode src m).placement src' = s.placement src' := rfl

@[simp] theorem State.gate_storeGateMode (src : Source) (m : GateMode) (src' : Source) :
    (s.storeGateMode src m).gate src' = s.gate src' := rfl

@[simp] theorem State.feed_setService (st : ServiceState) (r : Ramp) (j : FeedKey) :
    (s.setService st r).feed j = s.feed j := rfl

@[simp] theorem State.placement_setService (st : ServiceState) (r : Ramp) (src' : Source) :
    (s.setService st r).placement src' = s.placement src' := rfl

@[simp] theorem State.gate_setService (st : ServiceState) (r : Ramp) (src' : Source) :
    (s.setService st r).gate src' = s.gate src' := rfl

@[simp] theorem State.feed_setClock (c : ClockUnit) (j : FeedKey) : (s.setClock c).feed j = s.feed j := rfl

@[simp] theorem State.placement_setClock (c : ClockUnit) (src' : Source) :
    (s.setClock c).placement src' = s.placement src' := rfl

@[simp] theorem State.gate_setClock (c : ClockUnit) (src' : Source) : (s.setClock c).gate src' = s.gate src' := rfl

@[simp] theorem State.feed_enterClockState (st : ClockState) (j : FeedKey) :
    (s.enterClockState st).feed j = s.feed j := rfl

@[simp] theorem State.placement_enterClockState (st : ClockState) (src' : Source) :
    (s.enterClockState st).placement src' = s.placement src' := rfl

@[simp] theorem State.gate_enterClockState (st : ClockState) (src' : Source) :
    (s.enterClockState st).gate src' = s.gate src' := rfl

@[simp] theorem State.feed_trigger (c : RestartCause) (j : FeedKey) : (s.trigger c).feed j = s.feed j := rfl

@[simp] theorem State.placement_trigger (c : RestartCause) (src' : Source) :
    (s.trigger c).placement src' = s.placement src' := rfl

@[simp] theorem State.gate_trigger (c : RestartCause) (src' : Source) : (s.trigger c).gate src' = s.gate src' := rfl

@[simp] theorem State.feed_clearMeters (j : FeedKey) : (s.clearMeters).feed j = s.feed j := rfl

@[simp] theorem State.placement_clearMeters (src' : Source) : (s.clearMeters).placement src' = s.placement src' := rfl

@[simp] theorem State.gate_clearMeters (src' : Source) : (s.clearMeters).gate src' = s.gate src' := rfl

end Machine

end Sys2Proof
end

