-- ==== Sys2Proof/Laws/Due.lean ====
section
/-! SUPPORT. A frame that finds nothing due starts on the part as it stands. -/

namespace Sys2Proof.Machine

/-- A fold whose every step leaves the start as it is leaves it. -/
theorem foldl_still {α σ : Type} {f : σ → α → σ} {s : σ} (h : ∀ x, f s x = s) (l : List α) : l.foldl f s = s := by
  induction l with
  | nil => rfl
  | cons x l ih => rw [List.foldl_cons, h, ih]

/-! ### An event that is not due changes nothing (log 4) -/

variable {s : State}

theorem State.switchChange_still (h : ∀ target, s.clock.flight = some (.down target) →
    target = .lockedExternal ∨ s.clock.gain ≠ 0) : s.switchChange = s := by
  unfold State.switchChange
  split
  · next target hf => rw [if_pos (h target hf)]
  · rfl

theorem State.switchComplete_still (h : s.clock.flight = some .up → s.clock.gain ≠ 1) : s.switchComplete = s := by
  unfold State.switchComplete
  split
  · next hc => exact absurd hc.2 (h hc.1)
  · rfl

theorem State.endEntry_still (h : s.service.ramp.due = false) : s.endEntry = s := by simp [State.endEntry, h]

theorem State.completeServiceRamp_still (h : s.service.ramp.due = false) : s.completeServiceRamp = s := by
  simp [State.completeServiceRamp, h]

theorem State.completeOpening_still {src : Source} (h : ∀ r turned, s.gate src = .opening r turned → r.due = false) :
    s.completeOpening src = s := by
  unfold State.completeOpening
  split
  · next r turned hr => simp [h r turned hr]
  · rfl

theorem State.completeClosing_still {src : Source} (h : ∀ r, s.gate src = .closing r → r.due = false) :
    s.completeClosing src = s := by
  unfold State.completeClosing
  split
  · next r hr => simp [h r hr]
  · rfl

theorem State.completeTrim_still {src : Source} (h : (vget s.channels src).trimFactor.due = false) :
    s.completeTrim src = s := by
  simp [State.completeTrim, h]

theorem State.completeSection_still {src : Source} {i : SectionSlot}
    (h : ∀ sec, vget (vget s.sections src) i = some sec → sec.cut.due = false) : s.completeSection src i = s := by
  unfold State.completeSection
  dsimp only
  split
  · next sec hs => simp [h sec hs]
  · rfl

theorem State.completeGlide_still {k : FeedKey} (h : ∀ f, s.feed k = some f → f.glideDue = false) :
    s.completeGlide k = s := by
  unfold State.completeGlide
  split
  · next f hf => simp [h f hf]
  · rfl

theorem State.completeGain_still {k : FeedKey} (h : ∀ f, s.feed k = some f → f.gainDue = false) :
    s.completeGain k = s := by
  unfold State.completeGain
  split
  · next f hf => simp [h f hf]
  · rfl

theorem State.completeFadeIn_still {k : FeedKey} (h : ∀ f r, s.feed k = some f → f.state = .fadingIn r → r.due = false) :
    s.completeFadeIn k = s := by
  unfold State.completeFadeIn
  split
  · next f hf =>
    split
    · next r hr => simp [h f r hf hr]
    · rfl
  · rfl

theorem State.completeFadeOut_still {k : FeedKey}
    (h : ∀ f r, s.feed k = some f → f.state = .fadingOut r → r.due = false) : s.completeFadeOut k = s := by
  unfold State.completeFadeOut
  split
  · next f hf =>
    split
    · next r hr => simp [h f r hf hr]
    · rfl
  · rfl

theorem State.completeMute_still {z : Zone} (h : (vget s.mixers z).mute.due = false) : s.completeMute z = s := by
  simp [State.completeMute, h]

theorem State.evaluateBlock_still (h : s.blockCount < 480) : s.evaluateBlock = s := by
  simp [State.evaluateBlock, Nat.not_le.mpr h]

theorem State.endWindow_still (h : s.windowCount < 1024) : s.endWindow = s := by
  simp [State.endWindow, Nat.not_le.mpr h]

/-- A second has ended exactly outside STANDBY with its 48 000 frames counted (R107). -/
theorem State.secondEnded_iff : s.secondEnded = true ↔ s.service.state ≠ .standby ∧ 48000 ≤ s.secondCount := by
  simp [State.secondEnded]

theorem State.advanceAging_still (h : s.service.state = .standby ∨ s.secondCount < 48000) : s.advanceAging = s := by
  have : s.secondEnded = false := by
    rcases h with h | h <;> simp [State.secondEnded, h]
  simp [State.advanceAging, this]

/-- `takeDue` changes nothing where no switch phase, ramp, glide, movement or count stands at its end. -/
theorem State.takeDue_still (h : s.NothingDue) : s.takeDue = s := by
  obtain ⟨hd, hu, hs, hch, hf, hm, hb, hw, hsec⟩ := h
  have h2 (src : Source) : s.takeDueChannel src = s := by
    obtain ⟨hg, ht, hn⟩ := hch src
    unfold State.takeDueChannel
    rw [State.completeOpening_still fun r turned h => hg r (.inr ⟨turned, h⟩),
      State.completeClosing_still fun r h => hg r (.inl h),
      State.completeTrim_still (by simpa [Slide.due] using ht)]
    exact foldl_still (f := fun t i => State.completeSection t src i)
      (fun i => State.completeSection_still fun sec hsec => by simpa [Slide.due] using hn i sec hsec) _
  have h3 (k : FeedKey) : s.takeDueFeed k = s := by
    unfold State.takeDueFeed
    rw [State.completeGlide_still fun f h => by
        have := (hf k f h).1
        cases hg : f.glide with
        | none => simp [Feed.glideDue, hg]
        | some g => simpa [Feed.glideDue, hg] using this g hg,
      State.completeGain_still fun f h => by
        have := (hf k f h).2.1
        cases hg : f.smoothing with
        | none => simp [Feed.gainDue, hg]
        | some sm => simpa [Feed.gainDue, hg, Slide.due] using this sm hg,
      State.completeFadeIn_still fun f r h hr => (hf k f h).2.2 r (.inl hr),
      State.completeFadeOut_still fun f r h hr => (hf k f h).2.2 r (.inr hr)]
  have h4 : s.takeDue = (allZones.foldl State.completeMute (allFeeds.foldl State.takeDueFeed
      (allSources.foldl State.takeDueChannel
        s.switchChange.switchComplete.endEntry.completeServiceRamp))).evaluateBlock.endWindow.advanceAging := rfl
  rw [h4, State.switchChange_still hd, State.switchComplete_still hu, State.endEntry_still hs,
    State.completeServiceRamp_still hs, foldl_still (f := State.takeDueChannel) h2,
    foldl_still (f := State.takeDueFeed) h3, foldl_still (f := State.completeMute) fun z => State.completeMute_still (hm z),
    State.evaluateBlock_still hb, State.endWindow_still hw, State.advanceAging_still hsec]

/-! ### The events due, as commands -/

/-- Commands that each answer one operation's part run as the operations in turn. -/
theorem runCommands_map {α : Type} (cmd : α → Instr) (op : State → α → State)
    (h : ∀ s x, exec (cmd x) s = .next (op s x)) (l : List α) (s : State) (rest : List Instr) :
    runCommands (l.map cmd ++ rest) s = runCommands rest (l.foldl op s) := by
  induction l generalizing s with
  | nil => rfl
  | cons x l ih => simp only [List.map_cons, List.cons_append, runCommands, h, List.foldl_cons, ih]

/-- Lists of commands that each run as one operation run as the operations in turn. -/
theorem runCommands_flatMap {α : Type} (cmds : α → List Instr) (op : State → α → State)
    (h : ∀ s x rest, runCommands (cmds x ++ rest) s = runCommands rest (op s x)) (l : List α) (s : State)
    (rest : List Instr) : runCommands (l.flatMap cmds ++ rest) s = runCommands rest (l.foldl op s) := by
  induction l generalizing s with
  | nil => rfl
  | cons x l ih => rw [List.flatMap_cons, List.append_assoc, h, ih, List.foldl_cons]

end Sys2Proof.Machine
end

