-- ==== Sys2Proof/Laws/Frame.lean ====
section
/-! SUPPORT. What one audio frame is, once: when it runs, the part it leaves, where a rounded product lies, and how a sample
passes the notch sections. A proof about AUDIO_FRAME cites these and keeps `State.takeDue` folded. -/

namespace Sys2Proof.Machine

/-- A frame that may run is a frame on the part as the events due leave it (R138; log 2). -/
theorem execAudioFrame_runs {s : State} (input : Vector Sample 16)
    (h : s.clock.state ≠ .lockedExternal ∨ s.clock.frameStarted = true) :
    exec (.audioFrame input) s = .next (s.takeDue.frame input) := by
  have : s.framePaced = true := by
    unfold State.framePaced
    rcases h with h | h
    · simp [h]
    · simp [h]
  simp only [exec, execAudioFrame, this]
  rfl

/-- The Clock Unit after one frame (R139). -/
theorem ClockUnit.advance_eq (c : ClockUnit) : { c.advance with frameStarted := false } =
    { c with
      frameStarted := false
      gain := match c.flight with
        | some (.down _) => max 0 (c.gain - 1 / 240)
        | some .up => min 1 (c.gain + 1 / 240)
        | none => c.gain } := by
  obtain ⟨sel, st, pend, flight, gain, pres, missed, fs⟩ := c
  rcases flight with _ | (_ | _) <;> rfl

/-- The part after one frame: the advance, the channels' work, then the mixers' work and the ports (R146). -/
theorem State.frame_eq (d : State) (input : Vector Sample 16) : ∃ portA portB, d.frame input =
    { d.advanceFrame.runChannels input with
      mixers := vgen fun z => (d.advanceFrame.runChannels input).runMixer z
      portA := portA
      portB := portB
      freeSerial := d.freeSerial + 1
      clock := { d.clock.advance with frameStarted := false } } := by
  refine ⟨(d.frame input).portA, (d.frame input).portB, ?_⟩
  unfold State.frame State.runMixers State.drivePorts
  dsimp only
  split <;> rfl

/-- A rounded product is the product itself where it is whole, else one of its two neighbours (log 7). -/
theorem roundSample_spec (serial place : Nat) (x : Rat) :
    (∃ n : Int, x = n ∧ roundSample serial place x = n) ∨
      (x - 1 < roundSample serial place x ∧ (roundSample serial place x : Rat) < x + 1) := by
  by_cases h : x.den = 1
  · exact .inl ⟨x.num, ((Rat.den_eq_one_iff x).mp h).symm, by simp [roundSample, h]⟩
  · right
    have hne : (x.floor : Rat) ≠ x := by
      intro e
      apply h
      rw [← e]
      rfl
    have hle : (x.floor : Rat) ≤ x := Int.floor_le x
    have hlt : x < x.floor + 1 := Int.lt_floor_add_one x
    have : (x.floor : Rat) < x := lt_of_le_of_ne hle hne
    unfold roundSample
    rw [if_neg h]
    split <;> push_cast <;> constructor <;> linarith

/-- A product saturated and rounded is a sample of it (R84, R146). -/
theorem isSampleOf_roundSample (serial place : Nat) (x : Rat) :
    IsSampleOf x (roundSample serial place (saturate x)) := by
  have whole (n : Int) : roundSample serial place (n : Rat) = n := by simp [roundSample]
  refine ⟨fun h => ?_, fun h => ?_, fun h1 h2 => ?_⟩
  · rw [show saturate x = ((8388607 : Int) : Rat) by rw [saturate, min_eq_left h]; norm_num]
    exact whole _
  · rw [show saturate x = ((-8388608 : Int) : Rat) by
      rw [saturate, min_eq_right (by linarith), max_eq_left h]; norm_num]
    exact whole _
  · rw [show saturate x = x by rw [saturate, min_eq_right h2, max_eq_right h1]]
    rcases roundSample_spec serial place x with ⟨n, rfl, hn⟩ | h
    · rw [hn]
      constructor <;> linarith
    · exact h

/-- What a sample becomes lies within the ends of a 24-bit sample. -/
theorem IsSampleOf.within {x : Rat} {n : Int} (h : IsSampleOf x n) : -8388608 ≤ n ∧ n ≤ 8388607 := by
  obtain ⟨h1, h2, h3⟩ := h
  by_cases ha : 8388607 ≤ x
  · have := h1 ha
    omega
  by_cases hb : x ≤ -8388608
  · have := h2 hb
    omega
  · obtain ⟨hl, hu⟩ := h3 (le_of_lt (not_le.mp hb)) (le_of_lt (not_le.mp ha))
    have hl' : (-8388609 : Rat) < n := by linarith [not_le.mp hb]
    have hu' : (n : Rat) < 8388608 := by linarith [not_le.mp ha]
    exact ⟨by have : (-8388609 : Int) < n := by exact_mod_cast hl'
              omega, by have : n < (8388608 : Int) := by exact_mod_cast hu'
                        omega⟩

/-- A whole number within the ends is a sample of itself. -/
theorem isSampleOf_self {n : Int} (h : -8388608 ≤ n ∧ n ≤ 8388607) : IsSampleOf n n := by
  refine ⟨fun hx => ?_, fun hx => ?_, fun _ _ => ⟨by linarith, by linarith⟩⟩
  · have : (8388607 : Int) ≤ n := by exact_mod_cast hx
    omega
  · have : n ≤ (-8388608 : Int) := by exact_mod_cast hx
    omega

/-! ### The notch sections -/

/-- The order in which a sample passes two sections: the lower band first, the lower slot first in one band. -/
def chainBefore (p q : SectionSlot × NotchSection) : Prop :=
  p.2.band < q.2.band ∨ (p.2.band = q.2.band ∧ p.1 < q.1)

theorem mem_placeInChain {i : SectionSlot} {sec : NotchSection} {p : SectionSlot × NotchSection}
    (l : List (SectionSlot × NotchSection)) : p ∈ placeInChain i sec l ↔ p = (i, sec) ∨ p ∈ l := by
  induction l with
  | nil => simp [placeInChain]
  | cons q l ih =>
    unfold placeInChain
    split
    · simp
    · simp only [List.mem_cons, ih]
      tauto

theorem placeInChain_sorted {i : SectionSlot} {sec : NotchSection} (l : List (SectionSlot × NotchSection))
    (hs : l.Pairwise chainBefore) (hi : ∀ p ∈ l, p.1 < i) : (placeInChain i sec l).Pairwise chainBefore := by
  induction l with
  | nil => simp [placeInChain]
  | cons q l ih =>
    obtain ⟨hq, hl⟩ := List.pairwise_cons.mp hs
    unfold placeInChain
    split
    · next hb =>
      refine List.pairwise_cons.mpr ⟨fun p hp => .inl ?_, hs⟩
      rcases List.mem_cons.mp hp with rfl | hp
      · exact hb
      · rcases hq p hp with h | ⟨h, -⟩
        · exact lt_trans hb h
        · exact h ▸ hb
    · next hb =>
      refine List.pairwise_cons.mpr ⟨fun p hp => ?_, ih hl fun p hp => hi p (.tail _ hp)⟩
      rcases (mem_placeInChain l).mp hp with rfl | hp
      · exact (lt_or_eq_of_le (not_lt.mp hb)).imp id fun h => ⟨h, hi q (.head _)⟩
      · exact hq p hp

/-- The chain of a channel's sections holds those in force, each with its slot, in order (R114). -/
theorem sectionChain_spec (secs : Vector (Option NotchSection) 16) : (sectionChain secs).Pairwise chainBefore ∧
    ∀ p, p ∈ sectionChain secs ↔ vget secs p.1 = some p.2 ∧ 0 < p.2.cut.value := by
  have key (slots : List SectionSlot) (acc : List (SectionSlot × NotchSection)) (ho : slots.Pairwise (· < ·))
      (hs : acc.Pairwise chainBefore) (ha : ∀ p ∈ acc, ∀ i ∈ slots, p.1 < i) :
      let l := slots.foldl (fun chain i =>
        match vget secs i with
        | some sec => if 0 < sec.cut.value then placeInChain i sec chain else chain
        | none => chain) acc
      l.Pairwise chainBefore ∧
        ∀ p, p ∈ l ↔ p ∈ acc ∨ (p.1 ∈ slots ∧ vget secs p.1 = some p.2 ∧ 0 < p.2.cut.value) := by
    induction slots generalizing acc with
    | nil => simpa using hs
    | cons i slots ih =>
      obtain ⟨hi, ho⟩ := List.pairwise_cons.mp ho
      have hrest := fun p hp j hj => ha p hp j (List.mem_cons_of_mem i hj)
      have unchanged (h : ∀ sec, vget secs i = some sec → ¬ 0 < sec.cut.value) (p : SectionSlot × NotchSection) :
          (p ∈ acc ∨ (p.1 ∈ slots ∧ vget secs p.1 = some p.2 ∧ 0 < p.2.cut.value)) ↔
            (p ∈ acc ∨ (p.1 ∈ i :: slots ∧ vget secs p.1 = some p.2 ∧ 0 < p.2.cut.value)) := by
        refine or_congr_right (and_congr_left fun hp => ⟨List.mem_cons_of_mem i, fun hm => ?_⟩)
        rcases List.mem_cons.mp hm with hm | hm
        · exact absurd hp.2 (h p.2 (hm ▸ hp.1))
        · exact hm
      obtain ⟨hrest1, hrest2⟩ := ih acc ho hs hrest
      simp only [List.foldl_cons]
      cases hv : vget secs i with
      | none => exact ⟨hrest1, fun p => (hrest2 p).trans (unchanged (by simp [hv]) p)⟩
      | some sec =>
        dsimp only
        split
        · next hc =>
          obtain ⟨h1, h2⟩ := ih (placeInChain i sec acc) ho
            (placeInChain_sorted acc hs fun p hp => ha p hp i (.head _)) fun p hp j hj => by
              rcases (mem_placeInChain acc).mp hp with rfl | hp
              · exact hi j hj
              · exact hrest p hp j hj
          refine ⟨h1, fun p => ?_⟩
          rw [h2 p, mem_placeInChain, List.mem_cons]
          constructor
          · rintro ((rfl | h) | h)
            · exact .inr ⟨.inl rfl, hv, hc⟩
            · exact .inl h
            · exact .inr ⟨.inr h.1, h.2⟩
          · rintro (h | ⟨h | h, hp⟩)
            · exact .inl (.inr h)
            · obtain ⟨j, other⟩ := p
              obtain rfl : j = i := h
              rw [hv] at hp
              obtain rfl : sec = other := Option.some.inj hp.1
              exact .inl (.inl rfl)
            · exact .inr ⟨h, hp⟩
        · next hc =>
          exact ⟨hrest1, fun p => (hrest2 p).trans (unchanged (fun _ h => Option.some.inj (hv.symm.trans h) ▸ hc) p)⟩
  have h := key allSlots [] (by decide) .nil (by simp)
  refine ⟨h.1, fun p => (h.2 p).trans ?_⟩
  have hm : p.1 ∈ allSlots := List.mem_finRange p.1
  simp [hm]

theorem throughSections_congr {a b : Vector (Option NotchSection) 16} (slots : List SectionSlot)
    (h : ∀ i ∈ slots, vget a i = vget b i) (x : Rat) : throughSections a slots x = throughSections b slots x := by
  induction slots generalizing x with
  | nil => rfl
  | cons i slots ih =>
    simp only [throughSections, h i (.head _)]
    exact ih (fun j hj => h j (.tail _ hj)) _

/-- A sample through a chain: each section is passed in turn, takes what it is given and what it gives into its memory, and
no other section changes (R114). -/
theorem runChain_spec (x : Rat) (secs : Vector (Option NotchSection) 16) (chain : List (SectionSlot × NotchSection))
    (hn : (chain.map Prod.fst).Nodup) (hv : ∀ p ∈ chain, vget secs p.1 = some p.2) :
    (runChain x secs chain).1 = throughSections secs (chain.map Prod.fst) x ∧
    (∀ i, i ∉ chain.map Prod.fst → vget (runChain x secs chain).2 i = vget secs i) ∧
    ∀ before i after sec, chain.map Prod.fst = before ++ i :: after → vget secs i = some sec →
      vget (runChain x secs chain).2 i = some (sec.pass (throughSections secs before x)).2 := by
  induction chain generalizing x secs with
  | nil => exact ⟨rfl, fun _ _ => rfl, fun before i after sec h => by simp at h⟩
  | cons p chain ih =>
    obtain ⟨j, s⟩ := p
    rw [List.map_cons, List.nodup_cons] at hn
    have hj : vget secs j = some s := hv (j, s) (.head _)
    have other (i : SectionSlot) (h : i ∈ chain.map Prod.fst) :
        vget (vset secs j (some (s.pass x).2)) i = vget secs i :=
      vget_vset_other _ _ fun e => hn.1 (e ▸ h)
    obtain ⟨h1, h2, h3⟩ := ih (s.pass x).1 (vset secs j (some (s.pass x).2)) hn.2 fun p hp => by
      rw [other p.1 (List.mem_map_of_mem hp)]
      exact hv p (.tail _ hp)
    refine ⟨?_, fun i hi => ?_, fun before i after sec hb hi => ?_⟩
    · simp only [runChain, List.map_cons, throughSections, hj, h1]
      exact throughSections_congr _ other _
    · simp only [List.map_cons, List.mem_cons, not_or] at hi
      simp only [runChain, h2 i hi.2]
      exact vget_vset_other _ _ fun e => hi.1 e.symm
    · cases before with
      | nil =>
        obtain ⟨rfl, -⟩ := List.cons.inj hb
        rw [hj] at hi
        obtain rfl := Option.some.inj hi
        simp only [runChain, h2 _ hn.1, throughSections]
        exact vget_vset_same _ _ _
      | cons k before =>
        have htail : chain.map Prod.fst = before ++ i :: after := (List.cons.inj hb).2
        have hk : j = k := (List.cons.inj hb).1
        have hmem (l : SectionSlot) (hl : l = i ∨ l ∈ before) : l ∈ chain.map Prod.fst := by
          rw [htail]
          rcases hl with rfl | hl
          · simp
          · simp [hl]
        simp only [runChain, h3 before i after sec htail ((other i (hmem i (.inl rfl))).trans hi), throughSections, ← hk, hj]
        rw [throughSections_congr before fun l hl => other l (hmem l (.inr hl))]
        rfl

/-- A sample through the sections of a channel: those in force in order, the result saturated, and the memory of each as its
filter leaves it (R84, R114). -/
theorem runSections_spec (serial : Nat) (src : Source) {x : Int} (secs : Vector (Option NotchSection) 16)
    (hx : -8388608 ≤ x ∧ x ≤ 8388607) : ∃ chain, IsChain secs chain ∧
      IsSampleOf (throughSections secs chain x) (runSections serial src x secs).1 ∧
      (∀ i, i ∉ chain → vget (runSections serial src x secs).2 i = vget secs i) ∧
      ∀ before i after sec, chain = before ++ i :: after → vget secs i = some sec →
        vget (runSections serial src x secs).2 i = some (sec.pass (throughSections secs before x)).2 := by
  obtain ⟨hs, hm⟩ := sectionChain_spec secs
  have hv (p : SectionSlot × NotchSection) (hp : p ∈ sectionChain secs) := ((hm p).mp hp).1
  have hirr (p : SectionSlot × NotchSection) : ¬ chainBefore p p := by simp [chainBefore]
  have hn : ((sectionChain secs).map Prod.fst).Nodup := by
    rw [List.Nodup, List.pairwise_map]
    refine hs.imp_of_mem fun {p q} hp hq hpq he => ?_
    have h2 : p.2 = q.2 := Option.some.inj ((hv p hp).symm.trans (he ▸ hv q hq))
    exact hirr p (Prod.ext he h2 ▸ hpq)
  refine ⟨(sectionChain secs).map Prod.fst, ⟨fun i => ?_, ?_⟩, ?_⟩
  · simp only [List.mem_map]
    constructor
    · rintro ⟨p, hp, rfl⟩
      exact ⟨p.2, (hm p).mp hp⟩
    · rintro ⟨sec, h⟩
      exact ⟨(i, sec), (hm (i, sec)).mpr h, rfl⟩
  · rw [List.pairwise_map]
    refine hs.imp_of_mem fun {p q} hp hq hpq a b ha hb => ?_
    rw [hv p hp] at ha
    rw [hv q hq] at hb
    cases ha
    cases hb
    exact hpq
  · have h := runChain_spec x secs (sectionChain secs) hn hv
    unfold runSections
    cases hc : sectionChain secs with
    | nil => exact ⟨isSampleOf_self hx, fun _ _ => rfl, fun before i after sec h => by simp at h⟩
    | cons p rest =>
      rw [hc] at h
      exact ⟨h.1 ▸ isSampleOf_roundSample serial (16 + src.val) _, h.2⟩

end Sys2Proof.Machine
end

