-- ==== Sys2Proof/Laws/Ops.lean ====
section
/-! SUPPORT. What each shared operation does, said once: offers and drops, reconciliation and the pool check, the end of
an event, gates and their drives, and how a request is answered. -/

namespace Sys2Proof.Machine

variable (s : State)

/-! ### The derivation queue -/

/-- An offer touches the queue alone (R47). -/
theorem State.offer_eq (k : FeedKey) : s.offer k = { s with queue := joinQueue s.queue [k] } := by
  unfold State.offer joinQueue
  by_cases h : k ∈ s.queue <;> simp [h]

theorem joinQueue_nil (queue : List FeedKey) : joinQueue queue [] = queue := by simp [joinQueue]

/-- Offers made in turn join as one list of offers. -/
theorem joinQueue_append (queue a b : List FeedKey) (h : a.Disjoint b) :
    joinQueue (joinQueue queue a) b = joinQueue queue (a ++ b) := by
  simp only [joinQueue, List.filter_append, List.append_assoc]
  congr 2
  apply List.filter_congr
  intro k hk
  have : k ∉ a := fun ha => h ha hk
  simp [this]

/-- Offers made one by one. -/
theorem State.foldl_offer (keys : List FeedKey) (h : keys.Nodup) :
    keys.foldl State.offer s = { s with queue := joinQueue s.queue keys } := by
  induction keys generalizing s with
  | nil => simp [joinQueue_nil]
  | cons k rest ih =>
    rw [List.nodup_cons] at h
    rw [List.foldl_cons, State.offer_eq, ih _ h.2]
    simp only
    rw [joinQueue_append _ [k] rest (by simpa using h.1)]
    rfl

/-- A choice of feeds offered: those in use and not FADING_OUT join in the order given (R3, R9, R34, R60). -/
theorem State.offerAll_eq (keys : List FeedKey) (h : keys.Nodup) :
    s.offerAll keys = { s with queue := joinQueue s.queue (keys.filter s.isOfferable) } :=
  State.foldl_offer s _ (h.filter _)

/-- A drop touches the feed it drops and the queue (R24). -/
theorem State.drop_eq (k : FeedKey) (h : k ∈ s.queue → ∃ f, s.feed k = some f ∧ f.state.isFadingOut = false) :
    s.drop k = { s.setFeed k ((s.feed k).bind s.droppedFeed) with queue := s.queue.filter (· ≠ k) } := by
  have same : ∀ f, s.feed k = f → s = s.setFeed k f := by
    intro f hf
    unfold State.setFeed
    rw [← hf]
    simp [State.feed]
  have off : k ∉ s.queue → s.queue.filter (· ≠ k) = s.queue := by
    intro hk
    rw [List.filter_eq_self]
    intro a ha
    have : a ≠ k := fun e => hk (e ▸ ha)
    simpa using this
  unfold State.drop
  split
  · next hf =>
    have hk : k ∉ s.queue := fun hk => by obtain ⟨f, hf', -⟩ := h hk; simp [hf] at hf'
    rw [off hk, hf]
    exact same none hf
  · next f hf =>
    simp only [hf, Option.bind_some, State.droppedFeed]
    split
    · next hs => simp [hs, State.release, State.unqueue]
    · next r hs =>
      have hk : k ∉ s.queue := by
        intro hk
        obtain ⟨g, hg, hg'⟩ := h hk
        simp only [hf, Option.some.injEq] at hg
        subst hg
        simp [hs, FeedState.isFadingOut] at hg'
      rw [off hk, hs]
      exact same (some f) hf
    · next h1 h2 =>
      cases hs : f.state with
      | waiting => exact absurd hs h1
      | fadingOut r => exact absurd hs (h2 r)
      | fadingIn r =>
        by_cases hstd : s.service.state = .standby
        · simp [hstd, State.release, State.unqueue]
        · simp [hstd, State.unqueue, Feed.fadeOut, Feed.leaving, Feed.withoutPending, FeedState.level, Ramp.start,
            stepOver, hs]
      | steady =>
        by_cases hstd : s.service.state = .standby
        · simp [hstd, State.release, State.unqueue]
        · simp [hstd, State.unqueue, Feed.fadeOut, Feed.leaving, Feed.withoutPending, FeedState.level, Ramp.start,
            stepOver, hs]

/-! ### Reconciliation -/

/-- Every feed on the queue is in use and not FADING_OUT (R46). -/
def State.QueueUsed (s : State) : Prop := ∀ k ∈ s.queue, ∃ f, s.feed k = some f ∧ f.state.isFadingOut = false

theorem State.isPlaced_iff (src : Source) :
    s.isPlaced src = true ↔ ∃ p, s.placement src = some p ∧ p.state = .active := by
  unfold State.isPlaced
  cases s.placement src <;> simp

/-- For an ACTIVE placement, a zone is wanted when it is in the desired set (R19). -/
theorem State.wants_of_active {src : Source} {p : Placement} (hp : s.placement src = some p) (ha : p.state = .active)
    (z : Zone) : s.wants (src, z) = s.desired p z := by
  simp only [State.wants, hp, ha, State.desired, beq_self_eq_true, Bool.true_and, AreaMode.serves]
  cases vget s.areas (vget s.zones z).area with
  | joined => rfl
  | separate sv => simp only [Bool.and_comm, Bool.beq_comm]

/-- A wanted zone belongs to an ACTIVE placement. -/
theorem State.placed_of_wants {k : FeedKey} (h : s.wants k = true) : s.isPlaced k.1 = true := by
  unfold State.wants at h
  unfold State.isPlaced
  cases hp : s.placement k.1 <;> simp_all

/-- The reconciliation of one zone of an ACTIVE placement touches its feed and the queue alone (R26). -/
theorem State.reconcileZone_eq (src : Source) (p : Placement) (z : Zone) (hp : s.placement src = some p)
    (ha : p.state = .active) (hq : s.QueueUsed) :
    s.reconcileZone src p z = { s.setFeed (src, z) (s.reconciledFeed (src, z)) with
      queue := if s.wants (src, z) then joinQueue s.queue [(src, z)] else s.queue.filter (· ≠ (src, z)) } := by
  have same : ∀ f, s.feed (src, z) = f → s.setFeed (src, z) f = s := by
    intro f hf
    unfold State.setFeed
    rw [← hf]
    simp [State.feed]
  unfold State.reconcileZone State.reconciledFeed
  rw [s.wants_of_active hp ha]
  cases hd : s.desired p z with
  | false =>
    rw [s.drop_eq (src, z) (hq _)]
    cases hf : s.feed (src, z) <;> simp
  | true =>
    cases hf : s.feed (src, z) with
    | none => simp [State.allocate, State.offer_eq, Feed.fresh]
    | some f =>
      cases hs : f.state with
      | fadingOut r =>
        simp [hs, FeedState.isFadingOut, State.offer_eq, Feed.fadeIn, FeedState.level, Ramp.start, stepOver]
      | waiting => simp [hs, FeedState.isFadingOut, State.offer_eq, same _ hf]
      | fadingIn r => simp [hs, FeedState.isFadingOut, State.offer_eq, same _ hf]
      | steady => simp [hs, FeedState.isFadingOut, State.offer_eq, same _ hf]

/-- One feed name reconciled, where its source's placement is ACTIVE. -/
def State.reconcileKey (s : State) (k : FeedKey) : State :=
  match s.placement k.1 with
  | some p => s.reconcileZone k.1 p k.2
  | none => s

theorem State.reconcileKey_eq (k : FeedKey) (h : s.isPlaced k.1 = true) (hq : s.QueueUsed) :
    s.reconcileKey k = { s.setFeed k (s.reconciledFeed k) with
      queue := if s.wants k then joinQueue s.queue [k] else s.queue.filter (· ≠ k) } := by
  obtain ⟨p, hp, ha⟩ := (s.isPlaced_iff k.1).mp h
  unfold State.reconcileKey
  rw [hp]
  exact s.reconcileZone_eq k.1 p k.2 hp ha hq

/-- A feed that reconciliation leaves for a wanted zone is in use and not FADING_OUT. -/
theorem State.reconciledFeed_of_wants {k : FeedKey} (h : s.wants k = true) :
    ∃ f, s.reconciledFeed k = some f ∧ f.state.isFadingOut = false := by
  unfold State.reconciledFeed
  rw [h]
  cases s.feed k with
  | none => exact ⟨_, rfl, rfl⟩
  | some f => cases hs : f.state <;> simp [hs, FeedState.isFadingOut]

theorem filter_joinQueue_of_keep (queue : List FeedKey) (k : FeedKey) (P : FeedKey → Bool) (h : P k = true) :
    (joinQueue queue [k]).filter P = joinQueue (queue.filter P) [k] := by
  unfold joinQueue
  by_cases hk : k ∈ queue <;> simp [hk, h, List.mem_filter]

/-- Feed names of ACTIVE placements reconciled in turn: each by the table of R26, none twice. -/
theorem State.foldl_reconcileKey (keys : List FeedKey) (hk : keys.Nodup) (ha : ∀ k ∈ keys, s.isPlaced k.1 = true)
    (hq : s.QueueUsed) :
    ∃ F, keys.foldl State.reconcileKey s = { s with
        feeds := F
        queue := joinQueue (s.queue.filter fun k => !keys.contains k || s.wants k) (keys.filter s.wants) } ∧
      ∀ k, (keys.foldl State.reconcileKey s).feed k = if k ∈ keys then s.reconciledFeed k else s.feed k := by
  induction keys generalizing s with
  | nil =>
    refine ⟨s.feeds, ?_, by simp⟩
    simp [joinQueue_nil]
  | cons k rest ih =>
    rw [List.nodup_cons] at hk
    rw [List.foldl_cons, s.reconcileKey_eq k (ha k (by simp)) hq]
    generalize ht : ({ s.setFeed k (s.reconciledFeed k) with
      queue := if s.wants k then joinQueue s.queue [k] else s.queue.filter (· ≠ k) } : State) = t
    have hfeed : ∀ j, t.feed j = if k = j then s.reconciledFeed k else s.feed j := by
      intro j
      rw [← State.feed_setFeed, ← ht]
      rfl
    have hwants : t.wants = s.wants := by rw [← ht]; rfl
    have hplaced : t.isPlaced = s.isPlaced := by rw [← ht]; rfl
    have hrec : ∀ j, j ≠ k → t.reconciledFeed j = s.reconciledFeed j := by
      intro j hj
      have hj' : t.feed j = s.feed j := by rw [hfeed, if_neg (fun h => hj h.symm)]
      have hdrop : t.droppedFeed = s.droppedFeed := by rw [← ht]; rfl
      have htime : t.timing = s.timing := by rw [← ht]; rfl
      unfold State.reconciledFeed
      rw [hwants, hj', hdrop, htime]
    have hqueue : t.queue = if s.wants k then joinQueue s.queue [k] else s.queue.filter (· ≠ k) := by rw [← ht]
    have hused : t.QueueUsed := by
      intro j hj
      rw [hfeed]
      rw [hqueue] at hj
      by_cases hw : s.wants k = true
      · by_cases hjk : k = j
        · rw [if_pos hjk]
          exact s.reconciledFeed_of_wants hw
        · rw [if_neg hjk]
          apply hq
          simp only [hw, if_true, joinQueue, List.mem_append, List.mem_filter, List.mem_singleton] at hj
          exact hj.resolve_right fun h => hjk h.1.symm
      · rw [if_neg hw] at hj
        simp only [List.mem_filter, decide_eq_true_eq] at hj
        rw [if_neg fun h => hj.2 h.symm]
        exact hq j hj.1
    obtain ⟨F, hF, hall⟩ := ih t hk.2 (fun j hj => by rw [hplaced]; exact ha j (by simp [hj])) hused
    refine ⟨F, ?_, ?_⟩
    · rw [hF, hqueue, hwants, ← ht]
      congr 1
      by_cases hw : s.wants k = true
      · rw [if_pos hw, filter_joinQueue_of_keep _ _ _ (by simp [hw]), List.filter_cons_of_pos hw,
          joinQueue_append _ [k] _ (by simpa using fun h => absurd h hk.1)]
        congr 1
        apply List.filter_congr
        intro j _
        by_cases hj : j = k <;> simp [hj, hw]
      · rw [if_neg hw, List.filter_cons_of_neg hw, List.filter_filter]
        congr 1
        apply List.filter_congr
        intro j _
        by_cases hj : j = k <;> simp [hj, hw]
    · intro j
      rw [hall, hfeed]
      by_cases hj : j ∈ rest
      · have hne : j ≠ k := fun h => hk.1 (h ▸ hj)
        simp [hj, hrec j hne]
      · by_cases hjk : j = k
        · subst hjk; simp [hj]
        · have hkj : ¬ k = j := fun h => hjk h.symm
          simp [hj, hjk, hkj]

theorem State.isPlaced_reconcileZone (src : Source) (p : Placement) (z : Zone) :
    (s.reconcileZone src p z).placements = s.placements := by
  unfold State.reconcileZone State.drop State.offer State.allocate State.release State.unqueue State.setFeed
    State.offer
  repeat' split
  all_goals rfl

/-- The reconciliation of one source's placement is that of its zones in ascending order. -/
theorem State.reconcile_eq (src : Source) : s.reconcile src =
    if s.isPlaced src then (allZones.map fun z => (src, z)).foldl State.reconcileKey s else s := by
  unfold State.reconcile State.isPlaced
  cases hp : s.placement src with
  | none => rfl
  | some p =>
    by_cases ha : p.state = .active
    · simp only [ha, if_true, beq_self_eq_true]
      rw [List.foldl_map]
      generalize allZones = zs
      induction zs generalizing s with
      | nil => rfl
      | cons z rest ih =>
        rw [List.foldl_cons, List.foldl_cons]
        have h1 : s.reconcileKey (src, z) = s.reconcileZone src p z := by unfold State.reconcileKey; simp only [hp]
        rw [h1]
        exact ih _ (by simp only [State.placement, State.isPlaced_reconcileZone]; exact hp)
    · simp [ha]

theorem State.placements_foldl_reconcileKey (keys : List FeedKey) :
    (keys.foldl State.reconcileKey s).placements = s.placements := by
  induction keys generalizing s with
  | nil => rfl
  | cons k rest ih =>
    rw [List.foldl_cons, ih]
    unfold State.reconcileKey
    split
    · exact State.isPlaced_reconcileZone s _ _ _
    · rfl

/-- The feed names of the chosen ACTIVE placements, ascending by source and then by zone. -/
def State.chosenKeys (s : State) (chosen : Source → Bool) : List FeedKey :=
  (s.activeAmong chosen).flatMap fun src => allZones.map fun z => (src, z)

theorem State.mem_chosenKeys (chosen : Source → Bool) (k : FeedKey) :
    k ∈ s.chosenKeys chosen ↔ k.1 ∈ s.activeAmong chosen := by
  obtain ⟨a, b⟩ := k
  simp [State.chosenKeys]

theorem nodup_sourceZones (sources : List Source) (h : sources.Nodup) :
    (sources.flatMap fun src => allZones.map fun z => (src, z)).Nodup := by
  rw [List.nodup_flatMap]
  refine ⟨fun src _ => nodup_allZones.map fun a b h => (Prod.mk.inj h).2, ?_⟩
  refine h.pairwise_of_forall_ne ?_
  intro a _ b _ hab
  simp only [Function.onFun, List.disjoint_left, List.mem_map, not_exists, not_and]
  rintro _ ⟨z, -, rfl⟩ z' -
  intro h
  exact hab (Prod.mk.inj h).1.symm

theorem State.reconcileMany_eq (chosen : Source → Bool) :
    s.reconcileMany chosen = (s.chosenKeys chosen).foldl State.reconcileKey s := by
  unfold State.reconcileMany State.chosenKeys State.activeAmong
  suffices h : ∀ (sources : List Source) (t : State), t.placements = s.placements →
      (sources.filter chosen).foldl State.reconcile t =
        ((sources.filter fun src => chosen src && s.isPlaced src).flatMap fun src =>
          allZones.map fun z => (src, z)).foldl State.reconcileKey t from h allSources s rfl
  intro sources
  induction sources with
  | nil => intro t _; rfl
  | cons src rest ih =>
    intro t ht
    have hp : t.isPlaced src = s.isPlaced src := by simp only [State.isPlaced, State.placement, ht]
    by_cases hc : chosen src = true
    · rw [List.filter_cons_of_pos hc, List.foldl_cons, State.reconcile_eq, hp]
      by_cases hs : s.isPlaced src = true
      · rw [if_pos hs, List.filter_cons_of_pos (by simp [hc, hs]), List.flatMap_cons, List.foldl_append]
        exact ih _ (by rw [State.placements_foldl_reconcileKey, ht])
      · rw [if_neg hs, List.filter_cons_of_neg (by simp [hs])]
        exact ih _ ht
    · rw [List.filter_cons_of_neg hc, List.filter_cons_of_neg (by simp [hc])]
      exact ih _ ht

/-- The reconciliation of the chosen ACTIVE placements: their feeds by the table of R26, every other feed as it was, the
queue by R47 and R48, and nothing else. -/
theorem State.reconcileMany_spec (chosen : Source → Bool) (hq : s.QueueUsed) :
    (∃ F, s.reconcileMany chosen = { s with feeds := F, queue := s.reconciledQueue chosen }) ∧
      ∀ k, (s.reconcileMany chosen).feed k =
        if (s.activeAmong chosen).contains k.1 then s.reconciledFeed k else s.feed k := by
  have hplaced : ∀ k ∈ s.chosenKeys chosen, s.isPlaced k.1 = true := by
    intro k hk
    rw [State.mem_chosenKeys, State.activeAmong, List.mem_filter] at hk
    simpa using (Bool.and_eq_true _ _ ▸ hk.2).2
  have hnodup : (s.chosenKeys chosen).Nodup := nodup_sourceZones _ (nodup_allSources.filter _)
  obtain ⟨F, hF, hall⟩ := s.foldl_reconcileKey (s.chosenKeys chosen) hnodup hplaced hq
  rw [← State.reconcileMany_eq] at hF hall
  refine ⟨⟨F, ?_⟩, ?_⟩
  · rw [hF]
    congr 1
    unfold State.reconciledQueue
    congr 1
    · apply List.filter_congr
      intro k _
      have : (s.chosenKeys chosen).contains k = (s.activeAmong chosen).contains k.1 := by
        rw [Bool.eq_iff_iff]
        simp [State.mem_chosenKeys]
      rw [this]
    · unfold State.chosenKeys zonesOf
      rw [List.filter_flatMap]
      congr 1
      funext src
      rw [List.filter_map]
      rfl
  · intro k
    rw [hall]
    simp [State.mem_chosenKeys]

/-- Feeds of one source dropped in turn (R24, R35). -/
theorem State.foldl_drop (src : Source) (zs : List Zone) (hz : zs.Nodup) (hq : s.QueueUsed) :
    ∃ F, zs.foldl (fun t z => t.drop (src, z)) s = { s with
        feeds := F, queue := s.queue.filter fun k => !(k.1 == src && zs.contains k.2) } ∧
      ∀ k, (zs.foldl (fun t z => t.drop (src, z)) s).feed k =
        if k.1 = src ∧ k.2 ∈ zs then (s.feed k).bind s.droppedFeed else s.feed k := by
  induction zs generalizing s with
  | nil => exact ⟨s.feeds, by simp, by simp⟩
  | cons z rest ih =>
    rw [List.nodup_cons] at hz
    rw [List.foldl_cons, s.drop_eq _ (hq _)]
    generalize ht : ({ s.setFeed (src, z) ((s.feed (src, z)).bind s.droppedFeed) with
      queue := s.queue.filter (· ≠ (src, z)) } : State) = t
    have hfeed : ∀ j, t.feed j = if (src, z) = j then (s.feed (src, z)).bind s.droppedFeed else s.feed j := by
      intro j
      rw [← State.feed_setFeed, ← ht]
      rfl
    have hd : t.droppedFeed = s.droppedFeed := by rw [← ht]; rfl
    have hqq : t.queue = s.queue.filter (· ≠ (src, z)) := by rw [← ht]
    have hused : t.QueueUsed := by
      intro j hj
      rw [hqq] at hj
      simp only [List.mem_filter, decide_eq_true_eq] at hj
      rw [hfeed, if_neg fun h => hj.2 h.symm]
      exact hq j hj.1
    obtain ⟨F, hF, hall⟩ := ih t hz.2 hused
    refine ⟨F, ?_, ?_⟩
    · rw [hF, hqq, List.filter_filter, ← ht]
      congr 1
      apply List.filter_congr
      rintro ⟨a, b⟩ _
      by_cases h1 : a = src <;> by_cases h2 : b = z <;> simp [h1, h2]
    · rintro ⟨a, b⟩
      rw [hall, hfeed, hd]
      by_cases h1 : a = src
      · subst h1
        by_cases h2 : b = z
        · subst h2; simp [hz.1]
        · have h3 : ¬ z = b := fun h => h2 h.symm
          by_cases h4 : b ∈ rest <;> simp [h2, h3, h4]
      · have : ¬ src = a := fun h => h1 h.symm
        simp [h1, this]

/-- The feed names of a choice of sources, ascending by source and then by zone. -/
theorem feedsOf_eq (chosen : Source → Bool) :
    feedsOf chosen = (allSources.filter chosen).flatMap fun src => allZones.map fun z => (src, z) := by
  unfold feedsOf allFeeds
  generalize allSources = sources
  induction sources with
  | nil => rfl
  | cons src rest ih =>
    rw [List.flatMap_cons, List.filter_append, ih]
    by_cases h : chosen src = true
    · simp [h]
    · simp [h, List.filter_map, Function.comp_def]

theorem nodup_feedsOf (chosen : Source → Bool) : (feedsOf chosen).Nodup := nodup_allFeeds.filter _

/-! ### The pool check -/

theorem State.missingFeeds_eq (src : Source) :
    s.missingFeeds src = allZones.countP fun z => s.wants (src, z) && (s.feed (src, z)).isNone := by
  unfold State.missingFeeds
  cases hp : s.placement src with
  | none =>
    have : ∀ z, s.wants (src, z) = false := fun z => by simp [State.wants, hp]
    simp [this]
  | some p =>
    by_cases ha : p.state = .active
    · simp only [ha, if_true]
      apply List.countP_congr
      intro z _
      rw [s.wants_of_active hp ha]
      cases h : s.feed (src, z) <;> simp [State.inUse, h]
    · have : ∀ z, s.wants (src, z) = false := fun z => by
        cases hs : p.state <;> simp_all [State.wants]
      simp [this, ha]

/-- The records a reconciliation needs (R29). -/
theorem State.recordsNeeded_eq (chosen : Source → Bool) : s.recordsNeeded chosen = s.newRecords chosen := by
  unfold State.recordsNeeded State.newRecords allFeeds
  rw [List.countP_flatMap]
  generalize allSources = sources
  induction sources with
  | nil => rfl
  | cons src rest ih =>
    rw [List.map_cons, List.sum_cons, ← ih]
    by_cases hc : chosen src = true
    · rw [List.filter_cons_of_pos hc, List.map_cons, List.sum_cons, State.missingFeeds_eq]
      congr 1
      simp only [Function.comp_apply, List.countP_map]
      apply List.countP_congr
      intro z _
      simp [hc]
    · rw [List.filter_cons_of_neg hc]
      have : List.countP (fun k => chosen k.1 && s.wants k && (s.feed k).isNone)
          (allZones.map fun z => (src, z)) = 0 := by
        rw [List.countP_eq_zero]
        simp [hc]
      simp [Function.comp_apply, this]

/-! ### The end of an event -/

/-- The part is settled exactly while nothing waits for derivation and every feed in use is STEADY and not gliding (R77). -/
theorem State.settled_iff : s.settled = true ↔
    s.queue = [] ∧ ∀ k f, s.feed k = some f → f.state = .steady ∧ f.glide = none := by
  simp only [State.settled, Bool.and_eq_true, List.isEmpty_iff, List.all_eq_true]
  refine and_congr_right fun _ => ⟨fun h k f hf => ?_, fun h k _ => ?_⟩
  · have := h k (mem_allFeeds k)
    simpa [hf, Feed.isSettled] using this
  · cases hf : s.feed k with
    | none => rfl
    | some f => simpa [Feed.isSettled] using h k f hf

theorem Feed.isSettled_smoothed (f : Feed) (g : Int) : (f.smoothed g).isSettled = f.isSettled := by
  unfold Feed.smoothed
  split
  · rfl
  · rfl
  · split <;> rfl

theorem State.settled_refreshGains : s.refreshGains.settled = s.settled := by
  unfold State.settled
  congr 1
  congr 1
  funext k
  rw [State.feed_refreshGains]
  cases s.feed k <;> simp [Feed.isSettled_smoothed]

/-- The counted states are not touched by the gains. -/
theorem Feed.state_smoothed (f : Feed) (g : Int) : (f.smoothed g).state = f.state := by
  unfold Feed.smoothed
  split
  · rfl
  · rfl
  · split <;> rfl

theorem State.openCount_refreshGains (z : Zone) : s.refreshGains.openCount z = s.openCount z := by
  unfold State.openCount
  congr 1
  funext src
  unfold State.countsToward
  rw [State.gate_refreshGains, State.feed_refreshGains]
  cases s.feed (src, z) <;> simp [Feed.state_smoothed]

/-- The end of an event touches the gains of the feeds and SETTLED alone (R78, R95, R144). -/
theorem State.closeEvent_eq (before : State) : before.closeEvent s = { s with
    feeds := s.refreshGains.feeds
    link := { s.link with flags := settledFlags before (before.closeEvent s) s.link.flags } } := by
  have hs : (before.closeEvent s).settled = s.settled := by
    unfold State.closeEvent
    dsimp only
    split
    · exact s.settled_refreshGains
    · exact s.settled_refreshGains
  unfold settledFlags
  rw [hs]
  unfold State.closeEvent
  dsimp only
  rw [s.settled_refreshGains]
  cases before.settled <;> cases s.settled <;> rfl

theorem State.feed_closeEvent (before : State) (k : FeedKey) :
    (before.closeEvent s).feed k = s.refreshGains.feed k := by
  unfold State.closeEvent
  dsimp only
  split <;> rfl

theorem State.openCount_closeEvent (before : State) (z : Zone) :
    (before.closeEvent s).openCount z = s.openCount z := by
  rw [← s.openCount_refreshGains]
  unfold State.closeEvent
  dsimp only
  split <;> rfl

theorem State.mixed_closeEvent (before : State) (z : Zone) (f : Option Feed) :
    (before.closeEvent s).mixed z f = s.mixed z f := by
  unfold State.mixed State.effectiveGain
  rw [State.openCount_closeEvent]

/-- What the end of an event leaves, feed by feed. -/
theorem State.closeEvent_feedsBecome (before : State) : FeedsBecome before s s.feed (before.closeEvent s) := by
  refine ⟨?_, fun k => ?_⟩
  · conv_lhs => rw [State.closeEvent_eq]
    rw [show (before.closeEvent s).feeds = s.refreshGains.feeds by
      conv_lhs => rw [State.closeEvent_eq]]
  · rw [State.feed_closeEvent, State.feed_refreshGains, State.mixed_closeEvent]
    rfl

/-- The end of an event that offered a choice of feeds. -/
theorem State.closeEvent_offerAll (before : State) (keys : List FeedKey) (h : keys.Nodup) :
    Offered before s (keys.filter s.isOfferable) (before.closeEvent (s.offerAll keys)) := by
  have := State.closeEvent_feedsBecome (s.offerAll keys) before
  rw [State.offerAll_eq _ _ h] at this ⊢
  exact this

/-- The end of an event that reconciled the chosen placements. -/
theorem State.closeEvent_reconcileMany (before : State) (chosen : Source → Bool) (hq : s.QueueUsed) :
    Reconciled before s chosen (before.closeEvent (s.reconcileMany chosen)) := by
  obtain ⟨⟨F, hF⟩, hall⟩ := s.reconcileMany_spec chosen hq
  have h := State.closeEvent_feedsBecome (s.reconcileMany chosen) before
  generalize before.closeEvent (s.reconcileMany chosen) = t at h ⊢
  generalize s.reconcileMany chosen = r at h hF hall
  subst hF
  exact ⟨h.1, fun k => by rw [h.2, hall]⟩

/-! ### Requests -/

theorem FeedsBecome.respond {s base t : State} {feeds : FeedKey → Option Feed} (h : FeedsBecome s base feeds t)
    (r : ResultCode) (e : Byte) (p : List Byte) : FeedsBecome s (base.respond r e p) feeds (t.respond r e p) := by
  obtain ⟨h1, h2⟩ := h
  refine ⟨?_, h2⟩
  conv_lhs => rw [h1]
  rfl

theorem Offered.respond {s base t : State} {offers : List FeedKey} (h : Offered s base offers t)
    (r : ResultCode) (e : Byte) (p : List Byte) : Offered s (base.respond r e p) offers (t.respond r e p) := by
  obtain ⟨h1, h2⟩ := h
  refine ⟨?_, h2⟩
  conv_lhs => rw [h1]
  rfl

theorem Reconciled.respond {s base t : State} {chosen : Source → Bool} (h : Reconciled s base chosen t)
    (r : ResultCode) (e : Byte) (p : List Byte) : Reconciled s (base.respond r e p) chosen (t.respond r e p) := by
  obtain ⟨h1, h2⟩ := h
  refine ⟨?_, h2⟩
  conv_lhs => rw [h1]
  rfl

/-- A request that may allocate, by its pool check (R29). -/
theorem afterPoolCheck_eq (written : State) (chosen : Source → Bool) (finish : State → State) :
    afterPoolCheck s (s.poolChecked written chosen) finish =
      if s.freeCount < written.newRecords chosen then (.poolFull, s)
      else (.ok, s.closeEvent (finish (written.reconcileMany chosen))) := by
  unfold afterPoolCheck State.poolChecked
  rw [State.recordsNeeded_eq]
  split <;> simp

/-! ### Gates and their drives -/

/-- The gate that the start of a source's drive makes of the one it finds (R90, R91, R92). -/
theorem State.drivenGate_eq (src : Source) : s.drivenGate src =
    if s.service.state = .standby then s.gate src
    else if s.isPlaced src then (vget s.sources src).driven (s.gate src)
    else (vget s.sources src).forcedShut (s.gate src) := by
  unfold State.drivenGate State.drive SourceRecord.driven
  by_cases hs : s.service.state = .standby
  · simp only [hs, if_true]
  · simp only [hs, if_false]
    by_cases hp : s.isPlaced src = true
    · simp only [hp, if_true]
      cases (vget s.sources src).gateMode <;> cases s.gate src <;> rfl
    · simp only [hp]
      cases s.gate src <;> rfl

/-- The gate a block evaluation makes of an AUTO gate (R87, R88, R89). -/
theorem State.evaluatedGate_eq (src : Source) (level : Int) :
    s.evaluatedGate src level = (vget s.sources src).evaluated level (s.gate src) := by
  unfold State.evaluatedGate SourceRecord.evaluated
  cases s.gate src <;> rfl

/-- A gate written touches its channel and, where it leaves the counted states, its detector (R99). -/
theorem State.setGate_eq (src : Source) (g : Gate) : s.setGate src g = { s with
    channels := vset s.channels src { vget s.channels src with gate := g }
    detectors := if g.counted then s.detectors else vset s.detectors src Detector.idle } := by
  unfold State.setGate
  cases g.counted <;> rfl

end Sys2Proof.Machine
end

