-- ==== Sys2Proof/Laws/Gates.lean ====
section
/-! SUPPORT. What a run of one gate operation over all sources leaves: each source's channel and detector as if it alone
had been touched (R85, R86, R165). -/

namespace Sys2Proof.Machine

variable (s : State)

/-- A gate operation of one source: it touches that source's channel and detector alone, and what it makes of them is
read from that source's own records and from what no gate operation touches. -/
structure GateOperation (op : State → Source → State) (c : State → Source → Channel) (d : State → Source → Detector) :
    Prop where
  frame : ∀ s src, op s src = { s with
    channels := vset s.channels src (c s src), detectors := vset s.detectors src (d s src) }
  channel : ∀ (s : State) (src : Source) (C : Vector Channel 16) (D : Vector Detector 16),
    vget C src = vget s.channels src → vget D src = vget s.detectors src →
    c { s with channels := C, detectors := D } src = c s src
  detector : ∀ (s : State) (src : Source) (C : Vector Channel 16) (D : Vector Detector 16),
    vget C src = vget s.channels src → vget D src = vget s.detectors src →
    d { s with channels := C, detectors := D } src = d s src

/-- A gate operation run over a list of sources. -/
theorem GateOperation.foldl {op : State → Source → State} {c : State → Source → Channel}
    {d : State → Source → Detector} (h : GateOperation op c d) (sources : List Source) (hn : sources.Nodup) (s : State) :
    ∃ C D, sources.foldl op s = { s with channels := C, detectors := D } ∧
      ∀ src, vget C src = (if src ∈ sources then c s src else vget s.channels src) ∧
        vget D src = (if src ∈ sources then d s src else vget s.detectors src) := by
  induction sources generalizing s with
  | nil => exact ⟨s.channels, s.detectors, rfl, by simp⟩
  | cons a rest ih =>
    rw [List.nodup_cons] at hn
    obtain ⟨C, D, hCD, hall⟩ := ih hn.2 (op s a)
    refine ⟨C, D, ?_, ?_⟩
    · rw [List.foldl_cons, hCD, h.frame]
    · intro src
      obtain ⟨hc, hd⟩ := hall src
      by_cases ha : src = a
      · subst ha
        rw [hc, hd, h.frame]
        simp [hn.1]
      · have ha' : ¬ a = src := fun e => ha e.symm
        rw [hc, hd, h.frame]
        by_cases hr : src ∈ rest
        · simp only [hr, if_true, List.mem_cons, or_true]
          exact ⟨h.channel _ _ _ _ (vget_vset_other _ _ ha') (vget_vset_other _ _ ha'),
            h.detector _ _ _ _ (vget_vset_other _ _ ha') (vget_vset_other _ _ ha')⟩
        · simp [hr, ha, vget_vset, ha']

/-- A detector after its gate is written (R99). -/
def detectorAfter (g : Gate) (d : Detector) : Detector := if g.counted then d else Detector.idle

theorem State.setGate_eq' (src : Source) (g : Gate) : s.setGate src g = { s with
    channels := vset s.channels src { vget s.channels src with gate := g }
    detectors := vset s.detectors src (detectorAfter g (vget s.detectors src)) } := by
  rw [State.setGate_eq]
  unfold detectorAfter
  cases g.counted <;> simp

theorem gateOperation_takeUpDrive : GateOperation State.takeUpDrive
    (fun s src => { vget s.channels src with gate := s.drivenGate src })
    (fun s src => detectorAfter (s.drivenGate src) (vget s.detectors src)) := by
  have hg : ∀ (s : State) (src : Source) (C : Vector Channel 16) (D : Vector Detector 16),
      vget C src = vget s.channels src →
      ({ s with channels := C, detectors := D } : State).drivenGate src = s.drivenGate src := by
    intro s src C D hC
    have h1 : ({ s with channels := C, detectors := D } : State).gate src = s.gate src := congrArg Channel.gate hC
    rw [State.drivenGate_eq, State.drivenGate_eq, h1]
    rfl
  refine ⟨fun s src => s.setGate_eq' src _, fun s src C D hC hD => ?_, fun s src C D hC hD => ?_⟩
  · simp only [hg s src C D hC, hC]
  · simp only [hg s src C D hC, hD]

/-- Every gate taken into the course of its drive (R86, R165). -/
theorem State.foldl_takeUpDrive : ∃ C D, allSources.foldl State.takeUpDrive s = { s with channels := C, detectors := D } ∧
    ∀ src, vget C src = { vget s.channels src with gate := s.drivenGate src } ∧
      vget D src = detectorAfter (s.drivenGate src) (vget s.detectors src) := by
  obtain ⟨C, D, h, hall⟩ := gateOperation_takeUpDrive.foldl allSources nodup_allSources s
  exact ⟨C, D, h, fun src => by simpa using hall src⟩

/-- The gate a block evaluation leaves of a source (R85). -/
def State.blockGate (s : State) (src : Source) : Gate :=
  if s.drive src = .auto then
    (vget s.sources src).evaluated (blockLevel (vget s.channels src).blockEnergy) (s.gate src)
  else s.gate src

theorem gateOperation_evaluateChannel : GateOperation State.evaluateChannel
    (fun s src => { vget s.channels src with
      level := blockLevel (vget s.channels src).blockEnergy, blockEnergy := 0, gate := s.blockGate src })
    (fun s src => if s.drive src = .auto then detectorAfter (s.blockGate src) (vget s.detectors src)
      else vget s.detectors src) := by
  have hg : ∀ (s : State) (src : Source) (C : Vector Channel 16) (D : Vector Detector 16),
      vget C src = vget s.channels src →
      ({ s with channels := C, detectors := D } : State).blockGate src = s.blockGate src := by
    intro s src C D hC
    have h1 : ({ s with channels := C, detectors := D } : State).gate src = s.gate src := congrArg Channel.gate hC
    unfold State.blockGate
    rw [h1, show ({ s with channels := C, detectors := D } : State).drive src = s.drive src from rfl]
    simp only [hC]
  refine ⟨fun s src => ?_, fun s src C D hC hD => ?_, fun s src C D hC hD => ?_⟩
  · unfold State.evaluateChannel State.blockGate
    dsimp only
    generalize blockLevel (vget s.channels src).blockEnergy = level
    have hd : (s.setChannel src { vget s.channels src with level := level, blockEnergy := 0 }).drive src =
        s.drive src := rfl
    rw [hd]
    by_cases ha : s.drive src = .auto
    · simp only [ha, if_true]
      have hgate : (s.setChannel src { vget s.channels src with level := level, blockEnergy := 0 }).gate src =
          s.gate src := by
        rw [State.gate_setChannel, if_pos rfl]
        rfl
      rw [State.setGate_eq', State.evaluatedGate_eq, hgate]
      apply State.ext
      all_goals try rfl
      all_goals simp [vset, vget]
    · simp only [ha, if_false]
      apply State.ext
      all_goals try rfl
      all_goals simp
  · simp only [hg s src C D hC, hC]
  · simp only [hg s src C D hC, hD]
    rfl

/-- A gate leaves the counted states at a block evaluation just where its hold expires: below the close threshold, in HOLD
with at most one block left, or in OPEN with a hold time of 0 (R88). -/
theorem SourceRecord.evaluated_expires (r : SourceRecord) (level : Int) (g : Gate) :
    (g.counted = true ∧ (r.evaluated level g).counted = false) ↔
      level < r.closeThreshold ∧ ((∃ timer, g = .hold timer ∧ timer ≤ 10) ∨ (g = .opened ∧ r.holdTime = 0)) := by
  unfold SourceRecord.evaluated
  by_cases h1 : r.closeThreshold ≤ level
  · cases g <;> simp [Gate.counted, h1, not_lt.mpr h1]
  · have h2 : level < r.closeThreshold := not_le.mp h1
    cases g with
    | hold timer => by_cases h3 : timer ≤ 10 <;> simp [Gate.counted, h1, h2, h3, SourceRecord.closesFrom]
    | opened => by_cases h3 : r.holdTime = 0 <;> simp [Gate.counted, h1, h2, h3, SourceRecord.closesFrom]
    | closed => simp [Gate.counted]
    | opening ramp turned => simp [Gate.counted]
    | closing ramp => simp [Gate.counted]

/-- A block evaluation of all channels (R85). -/
theorem State.foldl_evaluateChannel : ∃ C D,
    allSources.foldl State.evaluateChannel s = { s with channels := C, detectors := D } ∧
    ∀ src, vget C src = { vget s.channels src with
        level := blockLevel (vget s.channels src).blockEnergy, blockEnergy := 0, gate := s.blockGate src } ∧
      vget D src = if s.drive src = .auto then detectorAfter (s.blockGate src) (vget s.detectors src)
        else vget s.detectors src := by
  obtain ⟨C, D, h, hall⟩ := gateOperation_evaluateChannel.foldl allSources nodup_allSources s
  exact ⟨C, D, h, fun src => by simpa using hall src⟩

end Sys2Proof.Machine
end

