-- ==== Sys2Proof/Laws/History.lean ====
section
/-! SUPPORT. The history store: its canonical form is kept by every operation and met after reset, and a place written
reads back while every other place is left alone (R96). -/

namespace Sys2Proof.Machine

/-- A place above every place of the head of a canonical store is not listed. -/
theorem lookup_of_lt {cells : List (Nat × Int)} {addr : Nat} (h : ∀ c ∈ cells, addr < c.1) :
    cells.lookup addr = none := by
  induction cells with
  | nil => rfl
  | cons c rest ih =>
    have h1 : addr < c.1 := h c (by simp)
    rw [List.lookup_cons, ih fun d hd => h d (by simp [hd])]
    have : (addr == c.1) = false := by simp; omega
    rw [this]

/-- The canonical form, taken apart. -/
theorem cellsOk_cons {a : Nat} {x : Int} {rest : List (Nat × Int)} :
    cellsOk ((a, x) :: rest) = true ↔
      x ≠ 0 ∧ a < historySize ∧ (∀ c ∈ rest, a < c.1) ∧ cellsOk rest = true := by
  induction rest generalizing a x with
  | nil => simp [cellsOk, and_comm]
  | cons c rest ih =>
    obtain ⟨b, y⟩ := c
    simp only [cellsOk, Bool.and_eq_true, decide_eq_true_eq]
    rw [ih]
    constructor
    · rintro ⟨⟨hab, hx⟩, hy, hb, hall, hok⟩
      refine ⟨hx, by omega, ?_, hy, hb, hall, hok⟩
      intro c hc
      rcases List.mem_cons.mp hc with rfl | hc
      · exact hab
      · have := hall c hc
        omega
    · rintro ⟨hx, _, hall, hy, hb, hall', hok⟩
      exact ⟨⟨hall (b, y) (by simp), hx⟩, hy, hb, hall', hok⟩

/-- What a written store lists is the written place or was listed. -/
theorem mem_writeCell {addr : Nat} {x : Int} {cells : List (Nat × Int)} {c : Nat × Int}
    (h : c ∈ writeCell addr x cells) : c = (addr, x) ∨ c ∈ cells := by
  induction cells with
  | nil =>
    unfold writeCell at h
    split at h <;> simp_all
  | cons d rest ih =>
    obtain ⟨b, y⟩ := d
    unfold writeCell at h
    split at h
    · split at h <;> simp_all
    · split at h
      · split at h <;> (simp_all; try tauto)
      · rcases List.mem_cons.mp h with rfl | h
        · simp
        · rcases ih h with h | h <;> simp [h]

/-- A write keeps the canonical form. -/
theorem cellsOk_writeCell {addr : Nat} (x : Int) {cells : List (Nat × Int)} (ha : addr < historySize)
    (h : cellsOk cells = true) : cellsOk (writeCell addr x cells) = true := by
  induction cells with
  | nil =>
    unfold writeCell
    split
    · rfl
    · next hx => simp [cellsOk, ha, hx]
  | cons d rest ih =>
    obtain ⟨b, y⟩ := d
    obtain ⟨hy, hb, hall, hok⟩ := cellsOk_cons.mp h
    unfold writeCell
    split
    · next hlt =>
      split
      · exact h
      · next hx =>
        rw [cellsOk_cons]
        refine ⟨hx, ha, ?_, h⟩
        intro c hc
        rcases List.mem_cons.mp hc with rfl | hc
        · exact hlt
        · have := hall c hc
          omega
    · next hlt =>
      split
      · next heq =>
        subst heq
        split
        · exact hok
        · next hx => exact cellsOk_cons.mpr ⟨hx, ha, hall, hok⟩
      · next hne =>
        refine cellsOk_cons.mpr ⟨hy, hb, ?_, ih hok⟩
        intro c hc
        rcases mem_writeCell hc with rfl | hc
        · show b < addr
          omega
        · exact hall c hc

/-- A place written reads as the sample written. -/
theorem cellAt_writeCell_same {addr : Nat} (x : Int) {cells : List (Nat × Int)} (h : cellsOk cells = true) :
    cellAt (writeCell addr x cells) addr = x := by
  unfold cellAt
  induction cells with
  | nil =>
    unfold writeCell
    split
    · next hx => simp [hx]
    · simp
  | cons d rest ih =>
    obtain ⟨b, y⟩ := d
    obtain ⟨hy, hb, hall, hok⟩ := cellsOk_cons.mp h
    unfold writeCell
    split
    · next hlt =>
      split
      · next hx =>
        rw [lookup_of_lt (cells := (b, y) :: rest)]
        · simp [hx]
        · intro c hc
          rcases List.mem_cons.mp hc with rfl | hc
          · exact hlt
          · have := hall c hc
            omega
      · simp
    · split
      · next heq =>
        subst heq
        split
        · next hx => rw [lookup_of_lt hall]; simp [hx]
        · simp
      · next hne =>
        rw [List.lookup_cons]
        have : (addr == b) = false := by simpa using hne
        rw [this]
        exact ih hok

/-- A write leaves every other place as it reads. -/
theorem cellAt_writeCell_other {addr other : Nat} (x : Int) {cells : List (Nat × Int)} (hne : other ≠ addr) :
    cellAt (writeCell addr x cells) other = cellAt cells other := by
  unfold cellAt
  congr 1
  have hb : (other == addr) = false := by simpa using hne
  induction cells with
  | nil =>
    unfold writeCell
    split
    · rfl
    · simp [List.lookup_cons, hb]
  | cons d rest ih =>
    obtain ⟨b, y⟩ := d
    unfold writeCell
    split
    · split
      · rfl
      · rw [List.lookup_cons, hb]
    · split
      · next heq =>
        subst heq
        split
        · rw [List.lookup_cons, hb]
        · rw [List.lookup_cons, hb, List.lookup_cons, hb]
      · rw [List.lookup_cons, List.lookup_cons, ih]

/-- The history keeps its form under a frame's sample (R96). -/
theorem History.wf_push {h : History} (x : Int) (hw : h.wf = true) : (h.push x).wf = true := by
  simp only [History.wf, Bool.and_eq_true, decide_eq_true_eq] at hw ⊢
  exact ⟨cellsOk_writeCell x hw.2 hw.1, Nat.mod_lt _ (by decide)⟩

/-- The history keeps its form under clearing (R96). -/
theorem History.wf_clear {h : History} (hw : h.wf = true) : h.clear.wf = true := by
  simp only [History.wf, Bool.and_eq_true, decide_eq_true_eq] at hw ⊢
  exact ⟨rfl, hw.2⟩

/-- The history after reset has the form. -/
theorem History.wf_reset : Channel.reset.history.wf = true := rfl

/-- A cleared history reads as silence at every tap. -/
theorem History.tap_clear (h : History) (tap : Nat) : h.clear.tap tap = 0 := rfl

/-- The sample pushed last is read at tap 0. -/
theorem History.tap_push_zero {h : History} (x : Int) (hw : h.wf = true) : (h.push x).tap 0 = x := by
  simp only [History.wf, Bool.and_eq_true, decide_eq_true_eq] at hw
  unfold History.tap History.push
  have : ((h.writePos + 1) % historySize + historySize - 1 - 0 % historySize) % historySize = h.writePos := by
    have := hw.2
    unfold historySize at *
    omega
  simp only [this]
  exact cellAt_writeCell_same x hw.1

/-- The sample at a tap is read one tap later after a frame (R63, R96). -/
theorem History.tap_push_succ {h : History} (x : Int) (hw : h.wf = true) {n : Nat} (hn : n < 32767) :
    (h.push x).tap (n + 1) = h.tap n := by
  simp only [History.wf, Bool.and_eq_true, decide_eq_true_eq] at hw
  unfold History.tap History.push
  have hp := hw.2
  have : ((h.writePos + 1) % historySize + historySize - 1 - (n + 1) % historySize) % historySize =
      (h.writePos + historySize - 1 - n % historySize) % historySize := by
    unfold historySize at *
    omega
  simp only [this]
  apply cellAt_writeCell_other
  unfold historySize at *
  omega

end Sys2Proof.Machine
end

