-- ==== Sys2Proof/Laws/PerInstr.lean ====
section
/-! SUPPORT. A law of every command as syntax: a request's payload has the length the table of spec 12 gives its code,
and an event has no code and no payload. -/

namespace Sys2Proof.Laws

/-- What is sent for a command agrees with the table of request lengths (spec 12, Requests and payload lengths). -/
def Sent.Statement (i : Instr) : Prop :=
  (∀ code, requestCode i = some code → requestLength code.toNat = some (requestPayload i).length) ∧
    (requestCode i = none → requestPayload i = [])

/-- A request whose code and length agree. -/
theorem sent_of_code {i : Instr} {code : Byte} (h : requestCode i = some code)
    (hl : requestLength code.toNat = some (requestPayload i).length) : Sent.Statement i := by
  refine ⟨fun c hc => ?_, fun hn => ?_⟩
  · rw [h] at hc
    cases hc
    exact hl
  · rw [h] at hn
    cases hn

/-- An event. -/
theorem sent_of_event {i : Instr} (h : requestCode i = none) (hp : requestPayload i = []) : Sent.Statement i := by
  refine ⟨fun c hc => ?_, fun _ => hp⟩
  rw [h] at hc
  cases hc

theorem Sent.nop : Sent.Statement .nop := sent_of_code rfl rfl

theorem Sent.identify : Sent.Statement .identify := sent_of_code rfl rfl

theorem Sent.getCause : Sent.Statement .getCause := sent_of_code rfl rfl

theorem Sent.ackEvents (flags : Byte) : Sent.Statement (.ackEvents flags) := sent_of_code rfl rfl

theorem Sent.setEventMask (mask : Byte) : Sent.Statement (.setEventMask mask) := sent_of_code rfl rfl

theorem Sent.standby : Sent.Statement .standby := sent_of_code rfl rfl

theorem Sent.wake : Sent.Statement .wake := sent_of_code rfl rfl

theorem Sent.restart : Sent.Statement .restart := sent_of_code rfl rfl

theorem Sent.setClock (selection : Byte) : Sent.Statement (.setClock selection) := sent_of_code rfl rfl

theorem Sent.getClock : Sent.Statement .getClock := sent_of_code rfl rfl

theorem Sent.setStation (station : Byte) (position : RawPoint) (reach : ZoneSet) :
    Sent.Statement (.setStation station position reach) := sent_of_code rfl rfl

theorem Sent.getStation (station : Byte) : Sent.Statement (.getStation station) := sent_of_code rfl rfl

theorem Sent.clearStation (station : Byte) : Sent.Statement (.clearStation station) := sent_of_code rfl rfl

theorem Sent.setZone (payload : ZonePayload) : Sent.Statement (.setZone payload) := sent_of_code rfl rfl

theorem Sent.getZone (zone : Byte) : Sent.Statement (.getZone zone) := sent_of_code rfl rfl

theorem Sent.setArea (area mode service : Byte) : Sent.Statement (.setArea area mode service) := sent_of_code rfl rfl

theorem Sent.getArea (area : Byte) : Sent.Statement (.getArea area) := sent_of_code rfl rfl

theorem Sent.setTemperature (temperature : Half) :
    Sent.Statement (.setTemperature temperature) := sent_of_code rfl rfl

theorem Sent.getAlignment : Sent.Statement .getAlignment := sent_of_code rfl rfl

theorem Sent.setTiming (payload : TimingPayload) : Sent.Statement (.setTiming payload) := sent_of_code rfl rfl

theorem Sent.getTiming : Sent.Statement .getTiming := sent_of_code rfl rfl

theorem Sent.place (source station service : Byte) (level : Half) :
    Sent.Statement (.place source station service level) := sent_of_code rfl rfl

theorem Sent.move (source station : Byte) : Sent.Statement (.move source station) := sent_of_code rfl rfl

theorem Sent.setLevel (source : Byte) (level : Half) : Sent.Statement (.setLevel source level) := sent_of_code rfl rfl

theorem Sent.retire (source : Byte) : Sent.Statement (.retire source) := sent_of_code rfl rfl

theorem Sent.getPlacement (source : Byte) : Sent.Statement (.getPlacement source) := sent_of_code rfl rfl

theorem Sent.findAtStation (station : Byte) : Sent.Statement (.findAtStation station) := sent_of_code rfl rfl

theorem Sent.getFeed (source zone : Byte) : Sent.Statement (.getFeed source zone) := sent_of_code rfl rfl

theorem Sent.listLimited : Sent.Statement .listLimited := sent_of_code rfl rfl

theorem Sent.getPool : Sent.Statement .getPool := sent_of_code rfl rfl

theorem Sent.setSource (payload : SourcePayload) : Sent.Statement (.setSource payload) := sent_of_code rfl rfl

theorem Sent.getSource (source : Byte) : Sent.Statement (.getSource source) := sent_of_code rfl rfl

theorem Sent.setGateMode (source mode : Byte) : Sent.Statement (.setGateMode source mode) := sent_of_code rfl rfl

theorem Sent.getMeters : Sent.Statement .getMeters := sent_of_code rfl rfl

theorem Sent.getZoneMeters : Sent.Statement .getZoneMeters := sent_of_code rfl rfl

theorem Sent.listNotches (source : Byte) : Sent.Statement (.listNotches source) := sent_of_code rfl rfl

theorem Sent.addNotch (source band depth : Byte) :
    Sent.Statement (.addNotch source band depth) := sent_of_code rfl rfl

theorem Sent.editNotch (source band depth kind : Byte) :
    Sent.Statement (.editNotch source band depth kind) := sent_of_code rfl rfl

theorem Sent.retireNotch (source band : Byte) : Sent.Statement (.retireNotch source band) := sent_of_code rfl rfl

theorem Sent.clearDynamic (source : Byte) : Sent.Statement (.clearDynamic source) := sent_of_code rfl rfl

theorem Sent.setCue (payload : CuePayload) : Sent.Statement (.setCue payload) := sent_of_code rfl rfl

theorem Sent.getCueStatus : Sent.Statement .getCueStatus := sent_of_code rfl rfl

theorem Sent.frameRejected (received : List Byte) : Sent.Statement (.frameRejected received) := sent_of_event rfl rfl

theorem Sent.powerOnReset (cuePins : Byte) : Sent.Statement (.powerOnReset cuePins) := sent_of_event rfl rfl

theorem Sent.resetPin : Sent.Statement .resetPin := sent_of_event rfl rfl

theorem Sent.clearing (cuePins : Byte) : Sent.Statement (.clearing cuePins) := sent_of_event rfl rfl

theorem Sent.derivation : Sent.Statement .derivation := sent_of_event rfl rfl

theorem Sent.glideComplete (source : Source) (zone : Zone) :
    Sent.Statement (.glideComplete source zone) := sent_of_event rfl rfl

theorem Sent.fadeInComplete (source : Source) (zone : Zone) :
    Sent.Statement (.fadeInComplete source zone) := sent_of_event rfl rfl

theorem Sent.fadeOutComplete (source : Source) (zone : Zone) :
    Sent.Statement (.fadeOutComplete source zone) := sent_of_event rfl rfl

theorem Sent.audioFrame (input : Vector Sample 16) : Sent.Statement (.audioFrame input) := sent_of_event rfl rfl

theorem Sent.blockEvaluation : Sent.Statement .blockEvaluation := sent_of_event rfl rfl

theorem Sent.holdExpiry (source : Source) : Sent.Statement (.holdExpiry source) := sent_of_event rfl rfl

theorem Sent.openingComplete (source : Source) : Sent.Statement (.openingComplete source) := sent_of_event rfl rfl

theorem Sent.closingComplete (source : Source) : Sent.Statement (.closingComplete source) := sent_of_event rfl rfl

theorem Sent.trimRampComplete (source : Source) : Sent.Statement (.trimRampComplete source) := sent_of_event rfl rfl

theorem Sent.windowEnd : Sent.Statement .windowEnd := sent_of_event rfl rfl

theorem Sent.ringCandidate (source : Source) (band : Band) :
    Sent.Statement (.ringCandidate source band) := sent_of_event rfl rfl

theorem Sent.agingAdvance : Sent.Statement .agingAdvance := sent_of_event rfl rfl

theorem Sent.agingStep (source : Source) (band : Band) :
    Sent.Statement (.agingStep source band) := sent_of_event rfl rfl

theorem Sent.sectionMovementComplete (source : Source) (slot : SectionSlot) :
    Sent.Statement (.sectionMovementComplete source slot) := sent_of_event rfl rfl

theorem Sent.gainMovementComplete (source : Source) (zone : Zone) :
    Sent.Statement (.gainMovementComplete source zone) := sent_of_event rfl rfl

theorem Sent.muteRampComplete (zone : Zone) : Sent.Statement (.muteRampComplete zone) := sent_of_event rfl rfl

theorem Sent.debouncedChange (line : Line) : Sent.Statement (.debouncedChange line) := sent_of_event rfl rfl

theorem Sent.frameSyncArrival (interval : Rat) : Sent.Statement (.frameSyncArrival interval) := sent_of_event rfl rfl

theorem Sent.missedFrame : Sent.Statement .missedFrame := sent_of_event rfl rfl

theorem Sent.presenceCountFull : Sent.Statement .presenceCountFull := sent_of_event rfl rfl

theorem Sent.lockChange : Sent.Statement .lockChange := sent_of_event rfl rfl

theorem Sent.clockLoss : Sent.Statement .clockLoss := sent_of_event rfl rfl

theorem Sent.switchChange : Sent.Statement .switchChange := sent_of_event rfl rfl

theorem Sent.switchComplete : Sent.Statement .switchComplete := sent_of_event rfl rfl

theorem Sent.standbyEntryComplete : Sent.Statement .standbyEntryComplete := sent_of_event rfl rfl

theorem Sent.serviceRampComplete : Sent.Statement .serviceRampComplete := sent_of_event rfl rfl

theorem Sent.transactionStart : Sent.Statement .transactionStart := sent_of_event rfl rfl

theorem Sent.cuePinSample (pins : Byte) : Sent.Statement (.cuePinSample pins) := sent_of_event rfl rfl

end Sys2Proof.Laws
end

