-- ==== Sys2Proof/Laws/Link.lean ====
section
/-! SUPPORT. The bytes of a transaction and the taking of a request, each said once: what the receive buffer keeps, what
the host reads, that a request's own frame passes every frame check, and what the rise of chip select answers. -/

namespace Sys2Proof.Machine

/-- The receive buffer keeps the first 50 bytes (R148). -/
theorem Link.receive_receiveBuffer (l : Link) (bytes : List Byte) : (l.receive bytes).receiveBuffer = bytes.take 50 := by
  have h : ∀ (bytes : List Byte) (l : Link), l.receiveBuffer.length ≤ 50 →
      (bytes.foldl Link.clockByte l).receiveBuffer = (l.receiveBuffer ++ bytes).take 50 := by
    intro bytes
    induction bytes with
    | nil => intro l hl; simp [List.take_of_length_le hl]
    | cons b rest ih =>
      intro l hl
      rw [List.foldl_cons]
      by_cases hfull : l.receiveBuffer.length < 50
      · rw [ih]
        · simp [Link.clockByte, keepByte, hfull]
        · simp only [Link.clockByte, keepByte, hfull, if_true, List.length_append, List.length_singleton]
          omega
      · have hk : (l.clockByte b).receiveBuffer = l.receiveBuffer := by simp [Link.clockByte, keepByte, hfull]
        have he : l.receiveBuffer.length = 50 := by omega
        rw [ih _ (by rw [hk]; exact hl), hk, List.take_append_of_le_length (by omega),
          List.take_append_of_le_length (by omega)]
  have := h bytes { l with receiveBuffer := [] } (by simp)
  simpa [Link.receive] using this

/-- The host reads the bytes the transaction holds, and a 0x00 byte for each further one (R148). -/
theorem Transaction.read_eq (n : Nat) (t : Transaction) :
    t.read n = t.shiftOut.take n ++ List.replicate (n - t.shiftOut.length) 0x00 := by
  induction n generalizing t with
  | zero => simp [Transaction.read]
  | succ n ih =>
    obtain ⟨out, ended⟩ := t
    cases out with
    | nil => simp [Transaction.read, ih, Transaction.dataOut, Transaction.clocked, List.replicate_succ]
    | cons b rest => simp [Transaction.read, ih, Transaction.dataOut, Transaction.clocked]

/-- No payload is longer than that of SET_ZONE. -/
theorem requestPayload_length (i : Instr) : (requestPayload i).length ≤ 20 := by
  cases i <;> simp [requestPayload, pointBytes, halfBytes, zoneSetBytes]

/-- A request's payload has the length of its code. -/
theorem requestLength_of_code {i : Instr} {code : Byte} (h : requestCode i = some code) :
    requestLength code.toNat = some (requestPayload i).length := by
  cases i <;> first | cases (show none = some code from h) | (cases h; rfl)

/-- A request's own frame passes every frame check, and its first byte is its code (R149). -/
theorem frame_of_request {i : Instr} {code : Byte} (h : requestCode i = some code) :
    ∃ frame, (encodeRequest i).getD [] = frame ∧ frame.take 50 = frame ∧ frameProblem frame = none ∧
      byteAt frame 0 = code := by
  have hl := requestPayload_length i
  refine ⟨_, rfl, ?_, ?_, ?_⟩
  · simp only [encodeRequest, h, Option.map_some, Option.getD_some]
    apply List.take_of_length_le
    simp only [List.length_cons]
    omega
  · simp only [encodeRequest, h, Option.map_some, Option.getD_some, frameProblem, requestLength_of_code h]
    have : (BitVec.ofNat 8 (requestPayload i).length).toNat = (requestPayload i).length := by
      simp only [BitVec.toNat_ofNat]
      omega
    simp [this]
  · simp [encodeRequest, h, byteAt]

/-- A request taken: the owning rule's answer with the response formed (R148, R150). -/
theorem onRequest_taken {s : State} {i : Instr} {code : Byte} (hc : requestCode i = some code) (act : State → Reply)
    (h : s.takesRequest = true) :
    onRequest i s act = .next ((act s).2.2.respond (act s).1 code (act s).2.1) := by
  obtain ⟨frame, hf, h50, hp, hb⟩ := frame_of_request hc
  simp only [onRequest, onRise, h, if_true, hf, Link.receive_receiveBuffer, h50, hp, hb]

/-- A request ended by a warm restart (R151, R167). -/
theorem onRequest_ended {s : State} (i : Instr) (act : State → Reply) (h : s.takesRequest = false) :
    onRequest i s act = .next s.endTransaction := by
  simp [onRequest, onRise, h]

/-- A rejected frame: the first check it fails gives the code, and its first byte is echoed (R149). -/
theorem execFrameRejected_taken {s : State} {received : List Byte} {p : FrameProblem}
    (hp : frameProblem (received.take 50) = some p) (h : s.takesRequest = true) :
    execFrameRejected received s = .next (s.respond (frameResult p) (byteAt (received.take 50) 0) []) := by
  simp [execFrameRejected, onRise, h, Link.receive_receiveBuffer, hp]

end Sys2Proof.Machine
end

