-- ==== Sys2Proof/Laws/Notches.lean ====
section
/-! SUPPORT. What the operations on Notch Tables and notch sections do: membership after an insertion or a removal, the
record found for a band, the weakest DYNAMIC notch, and the section a new notch takes (R103 to R106, R114). -/

namespace Sys2Proof.Machine

/-! ### Tables -/

theorem mem_insertNotch {n m : Notch} {t : List Notch} : m ∈ insertNotch n t ↔ m = n ∨ m ∈ t := by
  induction t with
  | nil => simp [insertNotch]
  | cons a rest ih =>
    unfold insertNotch
    split
    · simp
    · simp only [List.mem_cons, ih]
      tauto

theorem length_insertNotch (n : Notch) (t : List Notch) : (insertNotch n t).length = t.length + 1 := by
  induction t with
  | nil => rfl
  | cons a rest ih =>
    unfold insertNotch
    split
    · rfl
    · simp [ih]

theorem mem_removeNotch {b : Band} {m : Notch} {t : List Notch} : m ∈ removeNotch b t ↔ m ∈ t ∧ m.band ≠ b := by
  simp [removeNotch]

/-- A record found for a band is in the table, at that band. -/
theorem notchAt_some {b : Band} {t : List Notch} {n : Notch} (h : notchAt b t = some n) : n ∈ t ∧ n.band = b := by
  have h1 := List.find?_some h
  exact ⟨List.mem_of_find?_eq_some h, by simpa using h1⟩

theorem notchAt_none {b : Band} {t : List Notch} : notchAt b t = none ↔ ∀ n ∈ t, n.band ≠ b := by
  simp [notchAt]

/-- In a table whose records lie 2 bands apart, a record is found at its own band. -/
theorem notchAt_of_mem {t : List Notch} (ht : t.Pairwise fun a b => a.band.val + 2 ≤ b.band.val) {n : Notch}
    (hn : n ∈ t) : notchAt n.band t = some n := by
  induction t with
  | nil => cases hn
  | cons a rest ih =>
    rw [List.pairwise_cons] at ht
    unfold notchAt
    rw [List.find?_cons]
    rcases List.mem_cons.mp hn with rfl | hn
    · simp
    · have := ht.1 n hn
      have hne : (a.band == n.band) = false := by
        rw [beq_eq_false_iff_ne]
        intro e
        rw [e] at this
        omega
      rw [hne]
      exact ih ht.2 hn

/-- A match of a candidate is in the table, within one band (R104). -/
theorem matchingNotch_some {b : Band} {t : List Notch} {n : Notch} (h : matchingNotch b t = some n) :
    n ∈ t ∧ bandsMatch b n.band := by
  unfold matchingNotch at h
  split at h
  · next m hm =>
    cases h
    obtain ⟨h1, h2⟩ := notchAt_some hm
    refine ⟨h1, ?_⟩
    unfold bandsMatch
    rw [h2]
    omega
  · have h1 := List.find?_some h
    refine ⟨List.mem_of_find?_eq_some h, ?_⟩
    unfold bandsMatch
    simp only [Notch.near, Bool.and_eq_true, decide_eq_true_eq] at h1
    omega

/-- No record matches a candidate exactly when none lies within one band (R104). -/
theorem matchingNotch_none {b : Band} {t : List Notch} :
    matchingNotch b t = none ↔ ∀ n ∈ t, ¬ bandsMatch b n.band := by
  have hnear : ∀ n : Notch, n.near b = true ↔ bandsMatch b n.band := by
    intro n
    simp only [Notch.near, bandsMatch, Bool.and_eq_true, decide_eq_true_eq]
    omega
  unfold matchingNotch
  constructor
  · intro h n hn hm
    split at h
    · cases h
    · exact (List.find?_eq_none.mp h) n hn ((hnear n).mpr hm)
  · intro h
    have h1 : notchAt b t = none := by
      rw [notchAt_none]
      intro n hn e
      exact h n hn (by unfold bandsMatch; rw [e]; omega)
    rw [h1]
    exact List.find?_eq_none.mpr fun n hn hm => h n hn ((hnear n).mp hm)

/-! ### The weakest DYNAMIC notch -/

/-- `n` is weaker than `m`, or as weak and of no higher band (R105). -/
def Notch.weakerOrSame (n m : Notch) : Prop :=
  n.depth < m.depth ∨ (n.depth = m.depth ∧
    (m.quietTime < n.quietTime ∨ (m.quietTime = n.quietTime ∧ n.band ≤ m.band)))

theorem Notch.weakerOrSame_of_weaker {n m : Notch} (h : n.weaker m = true) : n.weakerOrSame m := by
  unfold Notch.weakerOrSame
  simp only [Notch.weaker, Bool.or_eq_true, Bool.and_eq_true, decide_eq_true_eq, beq_iff_eq] at h
  rcases h with h | ⟨h, h' | ⟨h', h''⟩⟩
  · exact Or.inl h
  · exact Or.inr ⟨h, Or.inl h'⟩
  · exact Or.inr ⟨h, Or.inr ⟨h'.symm, le_of_lt h''⟩⟩

theorem Notch.weakerOrSame_of_not_weaker {n m : Notch} (h : ¬ n.weaker m = true) : m.weakerOrSame n := by
  unfold Notch.weakerOrSame
  simp only [Notch.weaker, Bool.or_eq_true, Bool.and_eq_true, decide_eq_true_eq, beq_iff_eq, not_or, not_and,
    not_lt] at h
  obtain ⟨h1, h2⟩ := h
  rcases Nat.lt_or_ge m.depth n.depth with hd | hd
  · exact Or.inl hd
  · have he : n.depth = m.depth := by omega
    obtain ⟨h3, h4⟩ := h2 he
    refine Or.inr ⟨he.symm, ?_⟩
    rcases Nat.lt_or_ge n.quietTime m.quietTime with hq | hq
    · exact Or.inl hq
    · have hq' : n.quietTime = m.quietTime := by omega
      exact Or.inr ⟨hq', h4 hq'⟩

theorem Notch.weakerOrSame_trans {a b c : Notch} (h : a.weakerOrSame b) (h' : b.weakerOrSame c) :
    a.weakerOrSame c := by
  unfold Notch.weakerOrSame at *
  rcases h with h | ⟨h, h1⟩ <;> rcases h' with h' | ⟨h', h2⟩
  · left; omega
  · left; omega
  · left; omega
  · right
    refine ⟨h.trans h', ?_⟩
    rcases h1 with h1 | ⟨h1, h1'⟩ <;> rcases h2 with h2 | ⟨h2, h2'⟩
    · left; omega
    · left; omega
    · left; omega
    · right; exact ⟨by omega, le_trans h1' h2'⟩

theorem Notch.weakerOrSame_refl (n : Notch) : n.weakerOrSame n := Or.inr ⟨rfl, Or.inr ⟨rfl, le_refl _⟩⟩

/-- The choice of the weakest DYNAMIC notch: none where no record is DYNAMIC, else a weakest one (R105). -/
theorem weakestDynamic_spec (t : List Notch) :
    (weakestDynamic t = none ∧ ∀ n ∈ t, n.kind = .fixed) ∨ ∃ w, weakestDynamic t = some w ∧ IsWeakest t w := by
  suffices h : ∀ (rest done : List Notch) (best : Option Notch),
      ((best = none ∧ ∀ n ∈ done, n.kind = .fixed) ∨ ∃ w, best = some w ∧ IsWeakest done w) →
      (rest.foldl weakerChoice best = none ∧ ∀ n ∈ done ++ rest, n.kind = .fixed) ∨
        ∃ w, rest.foldl weakerChoice best = some w ∧ IsWeakest (done ++ rest) w by
    have := h t [] none (Or.inl ⟨rfl, by simp⟩)
    simpa [weakestDynamic] using this
  intro rest
  induction rest with
  | nil => intro done best h; simpa using h
  | cons n rest ih =>
    intro done best h
    rw [List.foldl_cons, show done ++ n :: rest = (done ++ [n]) ++ rest by simp]
    apply ih
    unfold weakerChoice
    by_cases hn : n.kind = .dynamic
    · rw [if_pos hn]
      right
      rcases h with ⟨rfl, hfix⟩ | ⟨w, rfl, hw, hwd, hall⟩
      · refine ⟨n, rfl, by simp, hn, fun m hm hmd => ?_⟩
        rcases List.mem_append.mp hm with hm | hm
        · rw [hfix m hm] at hmd
          cases hmd
        · rw [List.mem_singleton.mp hm]
          exact n.weakerOrSame_refl
      · by_cases hlt : n.weaker w = true
        · refine ⟨n, by simp [hlt], by simp, hn, fun m hm hmd => ?_⟩
          rcases List.mem_append.mp hm with hm | hm
          · exact Notch.weakerOrSame_trans (Notch.weakerOrSame_of_weaker hlt) (hall m hm hmd)
          · rw [List.mem_singleton.mp hm]
            exact n.weakerOrSame_refl
        · refine ⟨w, by simp [hlt], by simp [hw], hwd, fun m hm hmd => ?_⟩
          rcases List.mem_append.mp hm with hm | hm
          · exact hall m hm hmd
          · rw [List.mem_singleton.mp hm]
            exact Notch.weakerOrSame_of_not_weaker hlt
    · rw [if_neg hn]
      have hf : n.kind = .fixed := by cases hk : n.kind <;> simp_all
      rcases h with ⟨rfl, hfix⟩ | ⟨w, rfl, hw, hwd, hall⟩
      · left
        refine ⟨rfl, fun m hm => ?_⟩
        rcases List.mem_append.mp hm with hm | hm
        · exact hfix m hm
        · rw [List.mem_singleton.mp hm]
          exact hf
      · right
        refine ⟨w, rfl, by simp [hw], hwd, fun m hm hmd => ?_⟩
        rcases List.mem_append.mp hm with hm | hm
        · exact hall m hm hmd
        · rw [List.mem_singleton.mp hm] at hmd
          exact absurd hmd hn

/-! ### The Ring Detector -/

/-- No band's level is above that of the highest band (R100). -/
theorem le_highestBand (levels : Band → Int) (c : Band) : levels c ≤ levels (highestBand levels) := by
  have h : ∀ (l : List Band) (best : Band),
      (∀ c ∈ l, levels c ≤ levels (l.foldl (fun best b => if levels best < levels b then b else best) best)) ∧
        levels best ≤ levels (l.foldl (fun best b => if levels best < levels b then b else best) best) := by
    intro l
    induction l with
    | nil => simp
    | cons x l ih =>
      intro best
      simp only [List.foldl_cons, List.mem_cons, forall_eq_or_imp]
      obtain ⟨h1, h2⟩ := ih (if levels best < levels x then x else best)
      refine ⟨⟨le_trans ?_ h2, h1⟩, le_trans ?_ h2⟩ <;> split <;> omega
  exact (h allBands 0).1 c (List.mem_finRange c)

/-! ### Sections -/

/-- The section a new notch takes is free or outgoing; there is one wherever some section is free or outgoing (R114). -/
theorem sectionFor_spec (secs : Vector (Option NotchSection) 16) :
    (∀ i, sectionFor secs = some i →
      vget secs i = none ∨ ∃ sec, vget secs i = some sec ∧ sec.outgoing = true) ∧
    (sectionFor secs = none → ∀ i, ∃ sec, vget secs i = some sec ∧ sec.outgoing = false) := by
  have hleft : ∀ i n, outgoingLeft (vget secs i) = some n →
      ∃ sec, vget secs i = some sec ∧ sec.outgoing = true := by
    intro i n h
    cases hs : vget secs i with
    | none => simp [hs, outgoingLeft] at h
    | some sec =>
      refine ⟨sec, rfl, ?_⟩
      cases ho : sec.outgoing
      · simp [hs, outgoingLeft, ho] at h
      · rfl
  have hfold : ∀ (slots : List SectionSlot) (best : Option SectionSlot),
      (∀ i, best = some i → ∃ sec, vget secs i = some sec ∧ sec.outgoing = true) →
      (∀ i, slots.foldl (earlierOutgoing secs) best = some i → ∃ sec, vget secs i = some sec ∧ sec.outgoing = true) ∧
      (slots.foldl (earlierOutgoing secs) best = none →
        best = none ∧ ∀ i ∈ slots, outgoingLeft (vget secs i) = none) := by
    intro slots
    induction slots with
    | nil => intro best h; exact ⟨h, fun hn => ⟨hn, by simp⟩⟩
    | cons a rest ih =>
      intro best h
      rw [List.foldl_cons]
      cases ha : outgoingLeft (vget secs a) with
      | none =>
        have hs : earlierOutgoing secs best a = best := by simp [earlierOutgoing, ha]
        rw [hs]
        obtain ⟨h1, h2⟩ := ih best h
        refine ⟨h1, fun hn => ⟨(h2 hn).1, fun i hi => ?_⟩⟩
        rcases List.mem_cons.mp hi with rfl | hi
        · exact ha
        · exact (h2 hn).2 i hi
      | some n =>
        have hs : ∃ j, earlierOutgoing secs best a = some j ∧ ∃ sec, vget secs j = some sec ∧ sec.outgoing = true := by
          cases best with
          | none => exact ⟨a, by simp [earlierOutgoing, ha], hleft a n ha⟩
          | some j =>
            by_cases hlt : n < (outgoingLeft (vget secs j)).getD 0
            · exact ⟨a, by simp [earlierOutgoing, ha, hlt], hleft a n ha⟩
            · exact ⟨j, by simp [earlierOutgoing, ha, hlt], h j rfl⟩
        obtain ⟨j, hj, hsec⟩ := hs
        rw [hj]
        obtain ⟨h1, h2⟩ := ih (some j) (by intro i hi; cases hi; exact hsec)
        refine ⟨h1, fun hn => ?_⟩
        have := (h2 hn).1
        cases this
  unfold sectionFor
  cases hf : allSlots.find? fun i => (vget secs i).isNone with
  | some i =>
    refine ⟨fun j hj => ?_, fun hn => by cases hn⟩
    cases hj
    left
    simpa using List.find?_some hf
  | none =>
    obtain ⟨h1, h2⟩ := hfold allSlots none (by simp)
    refine ⟨fun i hi => Or.inr (h1 i hi), fun hn i => ?_⟩
    have hnone := List.find?_eq_none.mp hf i (mem_allSlots i)
    have hout := (h2 hn).2 i (mem_allSlots i)
    cases hs : vget secs i with
    | none => simp [hs] at hnone
    | some sec =>
      refine ⟨sec, rfl, ?_⟩
      cases ho : sec.outgoing
      · rfl
      · simp [hs, outgoingLeft, ho] at hout

@[simp] theorem vget_retuneSection (secs : Vector (Option NotchSection) 16) (b : Band) (depth : Nat)
    (i : SectionSlot) : vget (retuneSection secs b depth) i = (vget secs i).map fun sec =>
      if NotchSection.serves b (some sec) then { sec with cut := sec.cut.toward depth 2400 } else sec := by
  simp [retuneSection]

@[simp] theorem vget_retireSection (secs : Vector (Option NotchSection) 16) (b : Band) (i : SectionSlot) :
    vget (retireSection secs b) i = (vget secs i).map fun sec =>
      if NotchSection.serves b (some sec) then { sec with outgoing := true, cut := sec.cut.toward 0 2400 }
      else sec := by
  simp [retireSection]

@[simp] theorem vget_sectionsAtRest (table : List Notch) (i : SectionSlot) :
    vget (sectionsAtRest table) i = (table[i.val]?).map fun n => ⟨n.band, false, Slide.rest n.depth, FilterMemory.empty⟩ := by
  simp [sectionsAtRest]

end Sys2Proof.Machine
end

