-- ==== Sys2Proof/Laws/Operands.lean ====
section
/-! SUPPORT. What each payload field is read as (R168): identifiers, codes and clamped numbers. -/

namespace Sys2Proof.Machine

/-- An identifier in range is read as itself. -/
theorem asId_of_eq {n : Nat} {b : Byte} (i : Fin n) (h : b.toNat = i.val) : asId n b = some i := by
  unfold asId
  rw [dif_pos (by rw [h]; exact i.isLt)]
  congr 1
  exact Fin.ext h

/-- An identifier above its range is refused. -/
theorem asId_of_le {n : Nat} {b : Byte} (h : n ≤ b.toNat) : asId n b = none := by
  unfold asId
  rw [dif_neg (by omega)]

/-- What an identifier is read as carries the byte's number. -/
theorem asId_eq_some {n : Nat} {b : Byte} {i : Fin n} : asId n b = some i ↔ b.toNat = i.val := by
  refine ⟨fun h => ?_, asId_of_eq i⟩
  unfold asId at h
  split at h
  · cases h; rfl
  · cases h

/-- A yes-or-no byte is read by its number. -/
theorem asYesNo_of_eq {b : Byte} (v : Bool) (h : b.toNat = if v then 1 else 0) : asYesNo b = some v := by
  unfold asYesNo
  rw [h]
  cases v <;> rfl

theorem asYesNo_of_le {b : Byte} (h : 2 ≤ b.toNat) : asYesNo b = none := by
  unfold asYesNo
  split <;> first | omega | rfl

theorem asGateMode_of_eq {b : Byte} (m : GateMode) (h : b.toNat = m.code) : asGateMode b = some m := by
  unfold asGateMode
  rw [h]
  cases m <;> rfl

theorem asGateMode_of_le {b : Byte} (h : 3 ≤ b.toNat) : asGateMode b = none := by
  unfold asGateMode
  split <;> first | omega | rfl

theorem asNotchKind_of_eq {b : Byte} (k : NotchKind) (h : b.toNat = k.code) : asNotchKind b = some k := by
  unfold asNotchKind
  rw [h]
  cases k <;> rfl

theorem asNotchKind_of_le {b : Byte} (h : 2 ≤ b.toNat) : asNotchKind b = none := by
  unfold asNotchKind
  split <;> first | omega | rfl

theorem asFadeShape_of_eq {b : Byte} (f : FadeShape) (h : b.toNat = f.code) : asFadeShape b = some f := by
  unfold asFadeShape
  rw [h]
  cases f <;> rfl

theorem asFadeShape_of_le {b : Byte} (h : 2 ≤ b.toNat) : asFadeShape b = none := by
  unfold asFadeShape
  split <;> first | omega | rfl

theorem asSelection_of_eq {b : Byte} (c : ClockSelection) (h : b.toNat = c.code) : asSelection b = some c := by
  unfold asSelection
  rw [h]
  cases c <;> rfl

theorem asSelection_of_le {b : Byte} (h : 2 ≤ b.toNat) : asSelection b = none := by
  unfold asSelection
  split <;> first | omega | rfl

theorem asEdge_of_le {b : Byte} (h : 4 ≤ b.toNat) : asEdge b = none := by
  unfold asEdge
  split <;> first | omega | rfl

end Sys2Proof.Machine
end

