-- ==== Sys2Proof/Tests/Slice0.lean ====
section
/-! SUPPORT. Tests against the spec's own numbers, and for each statement with hypotheses a state and operands that meet
them. -/

namespace Sys2Proof.Tests

set_option Elab.async false

open Sys2Proof.Machine

/-! ### Well-formed terms -/

/-- A frame that passes the checks of R149 is no rejected frame. -/
theorem test_wellFormed_refuses_good_frame : (Instr.frameRejected [0x00, 0x00]).wellFormed = false := by decide

/-- The receive buffer keeps 50 bytes (R148). -/
theorem test_wellFormed_refuses_long_frame : (Instr.frameRejected (List.replicate 51 0xFF)).wellFormed = false := by
  decide

theorem test_wellFormed_refuses_negative_interval : (Instr.frameSyncArrival (-1)).wellFormed = false := by
  decide +kernel

theorem test_wellFormed_takes_the_rest :
    (Instr.frameRejected []).wellFormed = true ∧ (Instr.place 255 255 255 0).wellFormed = true := by decide

/-! ### Frames read as commands (spec 12) -/

/-- PLACE of source 4 at station 5 in service 0 at level +6. -/
theorem test_decode_place : decodeFrame [0x20, 0x05, 0x04, 0x05, 0x00, 0x00, 0x06] = .place 4 5 0 6 := by decide

/-- A signed level of −4 is 0xFFFC, most significant byte first; a filler byte follows. -/
theorem test_decode_setLevel : decodeFrame [0x22, 0x03, 0x02, 0xFF, 0xFC, 0x00] = .setLevel 2 0xFFFC := by decide

/-- Station 5 at (2400, 900, 350) with zones 6 to 9. -/
theorem test_decode_setStation : decodeFrame
    [0x10, 0x0A, 0x05, 0x09, 0x60, 0x03, 0x84, 0x01, 0x5E, 0x00, 0x03, 0xC0] =
      .setStation 5 ⟨2400, 900, 350⟩ 0x0003C0 := by decide

/-- The zone record's fields at their offsets. -/
theorem test_decode_setZone : decodeFrame
    [0x13, 0x14, 7, 0x17, 0x70, 0x02, 0xBC, 0x01, 0xC2, 0x18, 0x38, 0x01, 0x2C, 0x00, 0x78, 3, 0xFF, 0xF4, 24, 0xFF, 0xD0,
      1] = .setZone ⟨7, ⟨6000, 700, 450⟩, ⟨6200, 300, 120⟩, 3, 0xFFF4, 24, 0xFFD0, 1⟩ := by decide

theorem test_decode_setTiming : decodeFrame [0x1A, 0x09, 0, 80, 0x01, 0x2C, 1, 0, 120, 5, 20] =
    .setTiming ⟨80, 300, 1, 120, 5, 20⟩ := by decide

theorem test_decode_setSource : decodeFrame
    [0x30, 0x0F, 3, 0, 6, 0xFF, 0xB0, 0xFF, 0xA6, 0x01, 0xF4, 5, 0x01, 0x90, 1, 36, 6] =
      .setSource ⟨3, 6, 0xFFB0, 0xFFA6, 500, 5, 400, 1, 36, 6⟩ := by decide

theorem test_decode_setCue : decodeFrame [0x40, 0x09, 1, 3, 2, 0, 5, 0, 0, 0, 2] = .setCue ⟨1, 3, 2, 0, 5, 0, 0, 2⟩ := by
  decide

theorem test_decode_editNotch : decodeFrame [0x3A, 0x04, 2, 130, 18, 0] = .editNotch 2 130 18 0 := by decide

theorem test_decode_setClock : decodeFrame [0x08, 0x01, 0x01] = .setClock 1 := by decide

/-- The frame checks in their order (R149): no request, a wrong length, a payload cut short. -/
theorem test_decode_rejects :
    decodeFrame [0x17, 0x00] = .frameRejected [0x17, 0x00] ∧
    decodeFrame [0x21, 0x03, 0, 0, 0] = .frameRejected [0x21, 0x03, 0, 0, 0] ∧
    decodeFrame [0x21, 0x02, 0] = .frameRejected [0x21, 0x02, 0] ∧
    decodeFrame [0x02] = .frameRejected [0x02] := by decide

/-! ### Arithmetic of spec 03 -/

/-- The pulpit of the worked case. -/
def pulpit : Point := ⟨2400, 900, 350⟩

/-- Zone 7 of the worked case. -/
def zoneSeven : ZoneRecord := ⟨⟨6000, 700, 450⟩, ⟨6200, 300, 120⟩, 0, -12, 24, -48, false⟩

theorem test_distances : distance pulpit zoneSeven.listener = 3853 ∧
    distance zoneSeven.speaker zoneSeven.listener = 555 := by decide +kernel

/-- The table of R53. -/
theorem test_speedOfSound : [-100, -37, 0, 80, 200, 400].map speedOfSound =
    [325240, 329058, 331300, 336148, 343420, 355540] := by decide

/-- 5237 samples at 8.0 °C, 5138 at 20.0 °C, 5233 at 8.5 °C. -/
theorem test_totalDelay : [80, 200, 85].map (totalDelay pulpit zoneSeven) = [5237, 5138, 5233] := by decide +kernel

/-- The last edge case of spec 03: 220 m down the nave. -/
theorem test_limited : pathSamples 22000 (speedOfSound 200) = 30750 ∧ derivedDelay 31230 = 30000 ∧
    isLimited 31230 = true ∧ isLimited 30000 = false ∧ derivedDelay (-100) = 0 := by decide

/-- The factors of R58 and R84 within a step of 2^−21 of the table's four places. -/
theorem test_factors : factorOf 24 = 8348912 / 2 ^ 21 ∧ factorOf 0 = 1 ∧ factorOf (-40) = 209715 / 2 ^ 21 ∧
    gainFactor (-192) = 0 := by decide +kernel

/-- A block at the largest magnitude has level 0, one a step below it −1; one of a tenth of the amplitude, rounded down, −41;
silence −240 (R85, R147). -/
theorem test_levels : blockLevel (480 * 8388608 ^ 2) = 0 ∧ blockLevel (480 * 8388607 ^ 2) = -1 ∧
    blockLevel (480 * 838860 ^ 2) = -41 ∧ blockLevel 0 = -240 ∧ sampleLevel (-8388608) = 0 ∧ sampleLevel 8388607 = -1 := by
  decide +kernel

/-- R74: CONSTANT_DB gives 0.0040 at level 0.5, which is 8348.9 steps of 2^−21 by hand; LINEAR gives the level. -/
theorem test_fadeWeight : fadeWeight .constantDb (1 / 2) = 8349 / 2 ^ 21 ∧ fadeWeight .constantDb 0 = 0 ∧
    fadeWeight .constantDb 1 = 1 ∧ fadeWeight .linear (1 / 2) = 1 / 2 := by decide +kernel

/-- R114: the section of band 96, 640 Hz, at a cut of 12 hdB, cuts by 12 there and by 6 at bands 95 and 97. -/
theorem test_section_cuts : meetsCut (referenceFilter 96 12) 96 12 = true := by decide +kernel

/-- R100: the mid-band level of three loud samples, and silence. -/
theorem test_bandLevels : vget (bandLevels [1000000, -2000000, 3000000]) 207 = -107 ∧
    vget (bandLevels [0, 0]) 207 = -240 := by decide +kernel

/-! ### States of the witnesses -/

/-- Stations 0 and 1 surveyed, the second 1 m from the first. -/
def hall : State :=
  (State.reset.writeStation 0 ⟨true, ⟨0, 0, 0⟩, 0b011⟩).writeStation 1 ⟨true, ⟨100, 0, 0⟩, 0b110⟩

/-- A feed that has been derived and has faded in. -/
def steady : Feed := ⟨.steady, some 500, none, -12, false, some ⟨-12, Slide.rest (gainFactor (-12))⟩⟩

/-- Source 0 placed at station 0 in service 0: its feed to zone 0 STEADY, its feed to zone 1 new. -/
def placed : State :=
  { ((hall.setPlacement 0 (some ⟨0, 0, 0, .active⟩)).setFeed (0, 0) (some steady)).setFeed (0, 1) (some Feed.fresh) with
    queue := [(0, 1)] }

/-- Source 0 RETIRING, its last feed in the frame that ends its fade-out. -/
def leavingHall : State :=
  (hall.setPlacement 0 (some ⟨0, 0, 0, .retiring⟩)).setFeed (0, 0)
    (some { steady with state := .fadingOut ⟨1 / 14400, -(1 / 14400), true⟩ })

/-- Sources 0 to 14 placed at station 0 with 8 feeds each: 8 records are free. Station 1 reaches 9 other zones, and
zone 8, which station 0 reaches too, is in an area of its own. -/
def crowded : State :=
  { State.reset with
    stations := vset (vset State.reset.stations 0 ⟨true, ⟨0, 0, 0⟩, 0x0001FF⟩) 1 ⟨true, ⟨100, 0, 0⟩, 0x03FE00⟩
    zones := vset State.reset.zones 8 { ZoneRecord.reset with area := 1 }
    areas := vset State.reset.areas 1 (.separate 1)
    placements := vgen fun src => if src.val < 15 then some ⟨0, 0, 0, .active⟩ else none
    feeds := vgen fun src => vgen fun z => if src.val < 15 ∧ z.val < 8 then some steady else none }

/-- The part with the link's transaction ended by a warm restart. -/
def cutOff (s : State) : State := { s with link := { s.link with transaction := some ⟨[], true⟩ } }

/-- The part with a warm restart in progress. -/
def restarting (s : State) : State :=
  { s with service := { s.service with restart := some .restartRequest, ramp := ⟨1, -(1 / 240), false⟩ } }

/-- The part with a warm restart whose quiet phase is over. -/
def quieted (s : State) : State :=
  { s with service := { s.service with restart := some .restartRequest, ramp := ⟨0, 0, false⟩ } }

/-- The part in a service state. -/
def inService (st : ServiceState) (ramp : Ramp) (s : State) : State := { s with service := ⟨st, ramp, none, false⟩ }

/-- A running detector and a Notch Table for source 0 of `placed`, the sections at rest. -/
def tabled (t : List Notch) : State :=
  { placed with
    sources := vset placed.sources 0 { SourceRecord.reset with detectorEnable := true }
    channels := vset placed.channels 0 { Channel.reset with gate := .opened }
    notches := vgen fun src => if src = 0 then t else []
    sections := vgen fun src => sectionsAtRest (if src = 0 then t else []) }

/-- The cantor's table of the worked case. -/
def cantor : List Notch := [⟨96, 12, .dynamic, 40, 1⟩]

/-- The high altar's table of the worked case. -/
def altar : List Notch :=
  [⟨40, 12, .fixed, 0, 0⟩, ⟨72, 18, .fixed, 0, 3⟩, ⟨96, 12, .dynamic, 70, 1⟩, ⟨110, 18, .dynamic, 5, 2⟩,
    ⟨120, 12, .dynamic, 95, 4⟩, ⟨144, 24, .dynamic, 10, 3⟩, ⟨160, 12, .dynamic, 95, 1⟩, ⟨180, 24, .fixed, 0, 0⟩]

/-- The saturated table of the worked case. -/
def organ : List Notch :=
  [⟨30, 12, .fixed, 0, 0⟩, ⟨48, 12, .fixed, 0, 0⟩, ⟨60, 18, .fixed, 0, 0⟩, ⟨84, 12, .fixed, 0, 0⟩,
    ⟨100, 12, .fixed, 0, 0⟩, ⟨118, 18, .fixed, 0, 0⟩, ⟨137, 12, .fixed, 0, 0⟩, ⟨150, 12, .fixed, 0, 0⟩]

/-- Two notches about to age: one to 6, one out of the table; and one whose quiet time has not run. -/
def aged : List Notch := [⟨0, 12, .dynamic, 120, 1⟩, ⟨96, 11, .dynamic, 120, 1⟩, ⟨207, 36, .dynamic, 119, 255⟩]

/-- The part with the gate of source 15 as given. -/
def gated (g : Gate) (s : State) : State := s.setChannel 15 { vget s.channels 15 with gate := g }

/-- The part with its Clock Unit as given. -/
def clocked (c : ClockUnit) : State := { State.reset with clock := c }

/-- The part with Cue Line 7 as given. -/
def cued (c : CueLine) (s : State) : State := s.setCue 7 c

/-! ### The conditions, checked -/

/-- `State.FeedsOk` as a check. -/
def feedsCheck (s : State) : Bool :=
  decide s.queue.Nodup && s.queue.all (fun k => (s.feed k).any fun f => !f.state.isFadingOut) &&
    allFeeds.all fun k => (s.feed k).all fun f =>
      (f.state != .waiting || s.queue.contains k) && (s.placement k.1).isSome

theorem feedsOk_of_check {s : State} (h : feedsCheck s = true) : s.FeedsOk := by
  simp only [feedsCheck, Bool.and_eq_true, decide_eq_true_eq, List.all_eq_true] at h
  obtain ⟨⟨h1, h2⟩, h3⟩ := h
  refine ⟨h1, fun k hk => ?_, fun k f hf hw => ?_, fun k f hf => ?_⟩
  · have := h2 k hk
    rw [Option.any_eq_true] at this
    obtain ⟨f, hf, hv⟩ := this
    exact ⟨f, hf, by simpa using hv⟩
  · have := h3 k (mem_allFeeds k)
    rw [hf] at this
    simp [hw] at this
    exact this.1
  · have := h3 k (mem_allFeeds k)
    rw [hf] at this
    simp at this
    exact Option.isSome_iff_exists.mp this.2

/-- `State.PlacementsOk` as a check. -/
def placementsCheck (s : State) : Bool :=
  feedsCheck s && decide (allFeeds.countP (fun k => (s.feed k).isSome) ≤ 128) &&
    allSources.all fun src => (s.placement src).all fun p =>
      if p.state = .active then
        (vget s.stations p.station).present &&
          allZones.all fun z => s.wants (src, z) == (s.feed (src, z)).any fun f => !f.state.isFadingOut
      else
        (allZones.any fun z => (s.feed (src, z)).isSome) &&
          allZones.all fun z => (s.feed (src, z)).all fun f => f.state.isFadingOut

theorem placementsOk_of_check {s : State} (h : placementsCheck s = true) : s.PlacementsOk := by
  simp only [placementsCheck, Bool.and_eq_true, decide_eq_true_eq, List.all_eq_true] at h
  obtain ⟨⟨h1, h2⟩, h3⟩ := h
  have at_ (src : Source) (p : Placement) (hp : s.placement src = some p) := by
    have := h3 src (mem_allSources src)
    rw [hp, Option.all_some] at this
    exact this
  refine ⟨feedsOk_of_check h1, fun src p hp ha => ?_, fun src p z hp ha => ?_, fun src p hp hr => ⟨?_, fun z f hf => ?_⟩, h2⟩
  · have := at_ src p hp
    rw [if_pos ha, Bool.and_eq_true] at this
    exact this.1
  · have := at_ src p hp
    rw [if_pos ha, Bool.and_eq_true, List.all_eq_true] at this
    have := this.2 z (mem_allZones z)
    rw [beq_iff_eq] at this
    rw [this, Option.any_eq_true]
    simp
  · have := at_ src p hp
    rw [if_neg (by simp [hr]), Bool.and_eq_true, List.any_eq_true] at this
    obtain ⟨z, -, hz⟩ := this.1
    exact ⟨z, Option.isSome_iff_exists.mp hz⟩
  · have := at_ src p hp
    rw [if_neg (by simp [hr]), Bool.and_eq_true, List.all_eq_true] at this
    have := this.2 z (mem_allZones z)
    rwa [hf] at this

/-- `State.GainsOk` as a check. -/
def gainsCheck (s : State) : Bool :=
  allFeeds.all fun k => (s.feed k).all fun f =>
    if f.state = .waiting then f.smoothing.isNone
    else f.smoothing.any fun sm =>
      sm.effective == f.baseGain - attenuation (s.openCount k.2) && sm.factor.target == gainFactor sm.effective

theorem gainsOk_of_check {s : State} (h : gainsCheck s = true) : s.GainsOk := by
  intro k f hf
  simp only [gainsCheck, List.all_eq_true] at h
  have := h k (mem_allFeeds k)
  rw [hf, Option.all_some] at this
  refine ⟨fun hw => ?_, fun hw => ?_⟩
  · rw [if_pos hw] at this
    exact Option.isNone_iff_eq_none.mp this
  · rw [if_neg hw, Option.any_eq_true] at this
    obtain ⟨sm, hs, hv⟩ := this
    simp only [Bool.and_eq_true, beq_iff_eq] at hv
    exact ⟨sm, hs, hv⟩

/-- Tables in shape with their sections at rest meet R114. -/
theorem notchesOk_at_rest {s : State} (h : s.NotchTablesOk)
    (hs : ∀ src, vget s.sections src = sectionsAtRest (vget s.notches src)) : s.NotchesOk := by
  refine ⟨h, fun src => ⟨fun n hn => ?_, fun i sec hi ho => ?_⟩⟩
  · obtain ⟨hl, hp, -⟩ := h src
    obtain ⟨i, hi, rfl⟩ := List.mem_iff_getElem.mp hn
    refine ⟨⟨i, by omega⟩, ⟨(vget s.notches src)[i].band, false, Slide.rest (vget s.notches src)[i].depth,
      FilterMemory.empty⟩, ?_, rfl, rfl, rfl, ?_⟩
    · rw [hs, vget_sectionsAtRest]
      simp [hi]
    · intro j sec' hj hb _
      rw [hs, vget_sectionsAtRest] at hj
      simp only [Option.map_eq_some_iff] at hj
      obtain ⟨m, hm, rfl⟩ := hj
      obtain ⟨hj, rfl⟩ := List.getElem?_eq_some_iff.mp hm
      rw [List.pairwise_iff_getElem] at hp
      rcases Nat.lt_trichotomy i j.val with hlt | heq | hgt
      · have := hp i j.val hi hj hlt
        have hb' := congrArg Fin.val hb
        simp only at hb'
        omega
      · exact Fin.ext heq.symm
      · have := hp j.val i hj hi hgt
        have hb' := congrArg Fin.val hb
        simp only at hb'
        omega
  · rw [hs, vget_sectionsAtRest] at hi
    simp only [Option.map_eq_some_iff] at hi
    obtain ⟨m, hm, rfl⟩ := hi
    exact ⟨m, List.mem_of_getElem? hm, rfl⟩

theorem tabled_notchesOk {t : List Notch} (h : (tabled t).NotchTablesOk) : (tabled t).NotchesOk :=
  notchesOk_at_rest h fun src => by simp [tabled]

/-- `State.NothingDue` as a check. -/
def nothingDueCheck (s : State) : Bool :=
  (match s.clock.flight with
    | none => true
    | some .up => decide (s.clock.gain ≠ 1)
    | some (.down target) => decide (target = .lockedExternal ∨ s.clock.gain ≠ 0)) &&
  !s.service.ramp.due &&
  (allSources.all fun src =>
    (match s.gate src with
      | .opening r _ => !r.due
      | .closing r => !r.due
      | _ => true) &&
    !(vget s.channels src).trimFactor.due &&
    allSlots.all fun i => (vget (vget s.sections src) i).all fun sec => !sec.cut.due) &&
  (allFeeds.all fun k => (s.feed k).all fun f =>
    !f.glideDue && !f.gainDue &&
      match f.state with
      | .fadingIn r => !r.due
      | .fadingOut r => !r.due
      | _ => true) &&
  (allZones.all fun z => !(vget s.mixers z).mute.due) &&
  decide (s.blockCount < 480 ∧ s.windowCount < 1024 ∧ (s.service.state = .standby ∨ s.secondCount < 48000))

theorem nothingDue_of_check {s : State} (h : nothingDueCheck s = true) : s.NothingDue := by
  simp only [nothingDueCheck, Bool.and_eq_true, List.all_eq_true, Bool.not_eq_true', decide_eq_true_eq] at h
  obtain ⟨⟨⟨⟨⟨hc, hs⟩, hch⟩, hf⟩, hm⟩, hn⟩ := h
  refine ⟨fun target ht => ?_, fun hu => ?_, hs, fun src => ?_, fun k f hk => ?_, fun z => hm z (mem_allZones z), hn⟩
  · simpa [ht] using hc
  · simpa [hu] using hc
  · obtain ⟨⟨hg, ht⟩, hsec⟩ := hch src (mem_allSources src)
    refine ⟨fun r hr => ?_, by simpa [Slide.due] using ht, fun i sec hi => ?_⟩
    · rcases hr with hr | ⟨turned, hr⟩ <;> simpa [hr] using hg
    · have := hsec i (List.mem_finRange i)
      simpa [hi, Slide.due] using this
  · have := hf k (mem_allFeeds k)
    simp only [hk, Option.all_some, Bool.and_eq_true, Bool.not_eq_true'] at this
    obtain ⟨⟨hg, hs⟩, hr⟩ := this
    refine ⟨fun g h => by simpa [Feed.glideDue, h] using hg, fun sm h => by simpa [Feed.gainDue, Slide.due, h] using hs,
      fun r h => ?_⟩
    rcases h with h | h <;> simpa [h] using hr

theorem test_placed_ok : placed.PlacementsOk := placementsOk_of_check (by decide +kernel)

theorem test_leavingHall_ok : leavingHall.PlacementsOk := placementsOk_of_check (by decide +kernel)

theorem test_placed_gainsOk : placed.GainsOk := gainsOk_of_check (by decide +kernel)

theorem test_cantor_ok : (tabled cantor).NotchesOk := tabled_notchesOk (by unfold State.NotchTablesOk; decide +kernel)

theorem test_altar_ok : (tabled altar).NotchesOk := tabled_notchesOk (by unfold State.NotchTablesOk; decide +kernel)

theorem test_organ_ok : (tabled organ).NotchesOk := tabled_notchesOk (by unfold State.NotchTablesOk; decide +kernel)

theorem test_aged_ok : (tabled aged).NotchesOk := tabled_notchesOk (by unfold State.NotchTablesOk; decide +kernel)

/-! ### One step of the spec's worked cases -/

/-- The part that an answer goes on with. -/
def after (o : Answer) : State :=
  match o with
  | .next t => t
  | .fault _ => State.reset
  | .refused _ => State.reset

/-- Spec 06, a ring found and deepened: the candidate of band 97 hits the notch at 96. -/
theorem test_candidate_hits : vget (after (exec (.ringCandidate 0 97) (tabled cantor))).notches 0 =
    [⟨96, 18, .dynamic, 0, 2⟩] := by decide +kernel

/-- Spec 06, an eviction: band 130 takes the place of 120. -/
theorem test_candidate_evicts : vget (after (exec (.ringCandidate 0 130) (tabled altar))).notches 0 =
    [⟨40, 12, .fixed, 0, 0⟩, ⟨72, 18, .fixed, 0, 3⟩, ⟨96, 12, .dynamic, 70, 1⟩, ⟨110, 18, .dynamic, 5, 2⟩,
      ⟨130, 12, .dynamic, 0, 1⟩, ⟨144, 24, .dynamic, 10, 3⟩, ⟨160, 12, .dynamic, 95, 1⟩, ⟨180, 24, .fixed, 0, 0⟩] := by
  decide +kernel

/-- Spec 06, a saturated table: band 64 is dropped and NOTCH_SATURATED raised; ACK_EVENTS leaves it set. -/
theorem test_candidate_dropped : let t := after (exec (.ringCandidate 0 64) (tabled organ))
    vget t.notches 0 = organ ∧ flagIn t.link.flags .notchSaturated = true ∧
      flagIn (after (exec (.ackEvents 0x7F) t)).link.flags .notchSaturated = true := by decide +kernel

/-- Spec 06, R109: TOO_CLOSE is the earlier check, TABLE_FULL the later. -/
theorem test_addNotch_refused :
    (after (exec (.addNotch 0 101 12) (tabled organ))).link.response.result = .tooClose ∧
    (after (exec (.addNotch 0 170 12) (tabled organ))).link.response.result = .tableFull := by decide +kernel

/-- R107: at the decay time 12 falls to 6, 11 leaves, and a notch short of it by two only counts on. -/
theorem test_aging : vget (after (exec .agingAdvance
    { tabled [⟨0, 12, .dynamic, 119, 1⟩, ⟨96, 11, .dynamic, 119, 1⟩, ⟨207, 36, .dynamic, 118, 255⟩] with
      secondCount := 48000 })).notches 0 =
    [⟨0, 6, .dynamic, 0, 1⟩, ⟨207, 36, .dynamic, 119, 255⟩] := by decide +kernel

/-- R16, R107: a notch that a shortening has set to the decay time takes its step at the end of the second, not before, and in
place of that second's advance. -/
theorem test_agingStep : let s := tabled [⟨96, 18, .dynamic, 120, 1⟩]
    let t := after (exec (.agingStep 0 96) { s with secondCount := 48000 })
    vget (after (exec (.agingStep 0 96) s)).notches 0 = [⟨96, 18, .dynamic, 120, 1⟩] ∧
      vget (after (exec .agingAdvance t)).notches 0 = [⟨96, 12, .dynamic, 0, 1⟩] := by decide +kernel

/-- Spec 03, the deadband: at 80 in use and deadband 5, 84 is held and 85 adopted. -/
theorem test_deadband : let s : State := { placed with temperatureInUse := 80 }
    (after (exec (.setTemperature 84) s)).temperatureInUse = 80 ∧
    (after (exec (.setTemperature 85) s)).temperatureInUse = 85 := by decide +kernel

/-- R142: the third missed frame in a row is counted, the fourth is a loss. -/
theorem test_missedFrames : let c : ClockUnit := { ClockUnit.reset with selection := .external, state := .lockedExternal }
    (after (exec .missedFrame (clocked { c with missed := 2 }))).clock.state = .lockedExternal ∧
    (after (exec .missedFrame (clocked { c with missed := 3 }))).clock.state = .awaitingExternal := by decide +kernel

/-- Spec 08, the pulpit lamp: the contact closes and the stored MOVE is carried out; the response stays. -/
theorem test_cue_moves : let t := after (exec (.debouncedChange 7)
      (cued ⟨.rising, .move 0 1, .ok, true, 20, false, false, false⟩ placed))
    t.placement 0 = some ⟨1, 0, 0, .active⟩ ∧ (vget t.cues 7).delta = true ∧ flagIn t.link.flags .cue = true ∧
      t.link.response = Response.reset := by decide +kernel

/-- A PLACE of source 1 at station 1 queues its zones 1 and 2 behind what waits (R26, R47). -/
theorem test_place_queues : (after (exec (.place 1 1 0 0) placed)).queue = [(0, 1), (1, 1), (1, 2)] := by decide +kernel

/-! ### Witnesses: states and operands that meet the hypotheses of the statements, clause by clause -/

theorem witness_StepTakesTheFront : ({ State.reset with pending := [.nop, .windowEnd] } : State).pending =
    .nop :: [.windowEnd] ∧ State.reset.pending = [] := by decide

theorem witness_FrameReadBack : encodeRequest .nop = some [0x00, 0x00] ∧
    encodeRequest (.place 4 5 0 6) = some [0x20, 0x05, 0x04, 0x05, 0x00, 0x00, 0x06] := by decide

theorem witness_FrameChecks : State.reset.takesRequest = true ∧
    requestLength (0x17 : Byte).toNat = none ∧ requestLength (0x20 : Byte).toNat = some 5 ∧ (4 : Byte).toNat ≠ 5 ∧
    (5 : Byte).toNat = 5 ∧ (List.replicate 4 (0 : Byte)).length < 5 := by decide

theorem witness_TransactionStarts : State.reset.link.transaction = none ∧ State.reset.service.restart = none ∧
    (restarting placed).link.transaction = none ∧ (restarting placed).service.restart.isSome = true ∧
    (cutOff placed).link.transaction ≠ none := by decide

/-- A request, and frames that fail each check, in a restart and in a transaction that one has ended. -/
theorem witness_NoRequestInARestart : requestCode .nop = some 0x00 ∧ (restarting placed).takesRequest = false ∧
    (cutOff placed).takesRequest = false ∧ ([0x20] : List Byte).length < 2 ∧ requestLength (0x17 : Byte).toNat = none ∧
    requestLength (0x03 : Byte).toNat = some 1 ∧ (2 : Byte).toNat ≠ 1 ∧ ([] : List Byte).length < 1 := by decide

theorem witness_RefusalChangesNothing : requestCode (.move 15 31) = some 0x21 ∧ Instr.move 15 31 ≠ .restart ∧
    placed.takesRequest = true ∧ ∃ t, exec (.move 15 31) placed = .next t ∧ t.link.response.result ≠ .ok :=
  ⟨by decide, by decide, by decide, _, rfl, by decide +kernel⟩

theorem witness_ResponseShape : requestCode (.listNotches 0) = some 0x38 ∧ Instr.listNotches 0 ≠ .restart ∧
    (tabled altar).takesRequest = true ∧
    (∃ t, exec (.listNotches 0) (tabled altar) = .next t ∧ t.link.response.result = .ok) ∧
    (∃ t, exec (.listNotches 16) (tabled altar) = .next t ∧ t.link.response.result ≠ .ok) ∧
    ∃ t, exec .getPool (tabled altar) = .next t ∧ t.link.response.result = .ok ∧
      responseLength (0x28 : Byte).toNat = some 6 :=
  ⟨by decide, by decide, by decide, ⟨_, rfl, by decide +kernel⟩, ⟨_, rfl, by decide +kernel⟩,
    ⟨_, rfl, by decide +kernel, by decide⟩⟩

theorem witness_EventsKeepTheResponse : requestCode .derivation = none ∧
    (∀ received, Instr.derivation ≠ .frameRejected received) ∧ (∀ pins, Instr.derivation ≠ .powerOnReset pins) ∧
    (∀ pins, Instr.derivation ≠ .clearing pins) ∧ ∃ t, exec .derivation placed = .next t :=
  ⟨rfl, nofun, nofun, nofun, _, rfl⟩

theorem witness_PlainReads : placed.takesRequest = true := by decide

theorem witness_RecordReads : placed.takesRequest = true ∧ 32 ≤ (32 : Byte).toNat ∧
    (31 : Byte).toNat = (31 : StationId).val ∧ (vget placed.stations 31).present = false ∧
    (0 : Byte).toNat = (0 : StationId).val ∧ (vget placed.stations 0).present = true ∧
    24 ≤ (24 : Byte).toNat ∧ (23 : Byte).toNat = (23 : Zone).val ∧ 8 ≤ (8 : Byte).toNat ∧
    (7 : Byte).toNat = (7 : AreaId).val ∧ 16 ≤ (16 : Byte).toNat ∧ (15 : Byte).toNat = (15 : Source).val := by
  decide +kernel

theorem witness_PlacementReads : placed.takesRequest = true ∧ (15 : Byte).toNat = (15 : Source).val ∧
    placed.placement 15 = none ∧ placed.placement 0 = some ⟨0, 0, 0, .active⟩ ∧
    (23 : Byte).toNat = (23 : Zone).val ∧ placed.feed (0, 23) = none ∧ placed.feed (0, 0) = some steady ∧
    placed.feed (0, 1) = some Feed.fresh := by decide +kernel

theorem witness_ClearingReads : placed.takesRequest = true := by decide

/-- RESTARTED and SETTLED are set; RESTARTED is the cause where it is enabled, SETTLED where it alone is. -/
theorem witness_CauseAndAcknowledge :
    let s (mask : BitVec 7) : State := { State.reset with link := { Link.reset with flags := 0b1000010, mask := mask } }
    (s 0).takesRequest = true ∧ (s 0).link.flags &&& (s 0).link.mask = 0 ∧
    flagIn ((s 0x7F).link.flags &&& (s 0x7F).link.mask) .restarted = true ∧
    (∀ g, flagIn ((s 0x7F).link.flags &&& (s 0x7F).link.mask) g = true → EventFlag.restarted.index ≤ g.index) ∧
    flagIn ((s 0x40).link.flags &&& (s 0x40).link.mask) .settled = true ∧
    (∀ g, flagIn ((s 0x40).link.flags &&& (s 0x40).link.mask) g = true → EventFlag.settled.index ≤ g.index) := by
  refine ⟨by decide, by decide, by decide, ?_, by decide, ?_⟩ <;> intro g <;> cases g <;> decide

theorem witness_MaskAndAttention : placed.takesRequest = true ∧
    (∀ mask, Instr.clearing 0 ≠ .setEventMask mask) ∧ (∀ pins, Instr.clearing 0 ≠ .powerOnReset pins) ∧
    ∃ t, exec (.clearing 0) (quieted placed) = .next t :=
  ⟨by decide, nofun, nofun, _, rfl⟩

/-- The last feed's fade-out: it takes the part from not settled to settled. -/
theorem witness_SettledRaised : Instr.fadeOutComplete 0 0 ≠ .getCause ∧
    (∀ x, Instr.fadeOutComplete 0 0 ≠ .ackEvents x) ∧ (∀ x, Instr.fadeOutComplete 0 0 ≠ .powerOnReset x) ∧
    (∀ x, Instr.fadeOutComplete 0 0 ≠ .clearing x) ∧ (∀ x, Instr.fadeOutComplete 0 0 ≠ .setTiming x) ∧
    (∀ x, Instr.fadeOutComplete 0 0 ≠ .cuePinSample x) ∧
    ∃ t, exec (.fadeOutComplete 0 0) leavingHall = .next t ∧ leavingHall.settled = false ∧ t.settled = true :=
  ⟨nofun, nofun, nofun, nofun, nofun, nofun, _, rfl, by decide +kernel,
    by decide +kernel⟩

/-- Absent, repeated, moved, beyond the pool, and reconciled; in use, absent, and cleared. -/
theorem witness_StationEdits : placed.takesRequest = true ∧ crowded.takesRequest = true ∧ placed.FeedsOk ∧
    32 ≤ (32 : Byte).toNat ∧ (31 : Byte).toNat = (31 : StationId).val ∧ (vget placed.stations 31).present = false ∧
    vget placed.stations 0 = ⟨true, ⟨0, 0, 0⟩, 0b011⟩ ∧ (⟨0, 0, 0⟩ : Point) ≠ ⟨-32768, 0, 32767⟩ ∧
    (vget crowded.stations 0).present = true ∧ (vget crowded.stations 0).reach ≠ 0x0003FF ∧
    crowded.freeCount < (crowded.writeStation 0 ⟨true, ⟨0, 0, 0⟩, 0x0003FF⟩).newRecords (fun src =>
      (crowded.placement src).any fun p => p.station == 0) ∧
    (vget placed.stations 0).reach ≠ 0b110 ∧
    (placed.writeStation 0 ⟨true, ⟨0, 0, 0⟩, 0b110⟩).newRecords (fun src =>
      (placed.placement src).any fun p => p.station == 0) ≤ placed.freeCount ∧
    placed.placement 0 = some ⟨0, 0, 0, .active⟩ ∧
    (∀ src p, placed.placement src = some p → p.state = .active → p.station ≠ 1) ∧
    (vget placed.stations 1).present = true := by
  have h : ∀ src, ∀ p ∈ placed.placement src, p.state = .active → p.station ≠ 1 := by decide +kernel
  refine ⟨by decide, by decide, test_placed_ok.1, ?_, ?_, ?_, ?_, ?_, ?_, ?_, ?_, ?_, ?_, ?_, fun src p hp => h src p hp, ?_⟩ <;>
    decide +kernel

/-- The payload of a SET_ZONE that clears the mute of a zone at its power-on record but for area and level. -/
def zonePayload (zone area : Byte) (level : Half) : ZonePayload := ⟨zone, ⟨0, 0, 0⟩, ⟨0, 0, 0⟩, area, level, 20, 0, 0⟩

/-- The record of that payload. -/
def zoneRecord (area : AreaId) (level : Int) : ZoneRecord :=
  { ZoneRecord.reset with area := area, baseLevel := level, mute := false }

/-- Out of range; the mute alone; a value; an area beyond the pool; an area within it. -/
theorem witness_SetZoneEffects : placed.takesRequest = true ∧ crowded.takesRequest = true ∧ placed.FeedsOk ∧
    24 ≤ (zonePayload 24 0 0).zone.toNat ∧ 8 ≤ (zonePayload 23 8 0).area.toNat ∧
    asZoneRecord (zonePayload 23 0 0xFFF4) = some (23, zoneRecord 0 (-12)) ∧
    { vget placed.zones 23 with mute := false } = zoneRecord 0 (-12) ∧
    asZoneRecord (zonePayload 0 0 0x7FFF) = some (0, zoneRecord 0 24) ∧
    { vget placed.zones 0 with mute := false } ≠ zoneRecord 0 24 ∧
    asZoneRecord (zonePayload 8 0 0xFFF4) = some (8, zoneRecord 0 (-12)) ∧ (vget crowded.zones 8).area ≠ 0 ∧
    crowded.freeCount < (crowded.writeZone 8 (zoneRecord 0 (-12))).newRecords (fun _ => true) ∧
    asZoneRecord (zonePayload 0 7 0xFFF4) = some (0, zoneRecord 7 (-12)) ∧ (vget placed.zones 0).area ≠ 7 ∧
    (placed.writeZone 0 (zoneRecord 7 (-12))).newRecords (fun _ => true) ≤ placed.freeCount := by
  refine ⟨by decide, by decide, test_placed_ok.1, ?_⟩
  decide +kernel

/-- The nave, a bad mode, a bad service; a stored mode; a change beyond the pool; changes within it. -/
theorem witness_SetAreaEffects : placed.takesRequest = true ∧ crowded.takesRequest = true ∧ placed.FeedsOk ∧
    8 ≤ (8 : Byte).toNat ∧ 2 ≤ (2 : Byte).toNat ∧ (7 : AreaId) ≠ 0 ∧ (7 : Byte).toNat = (7 : AreaId).val ∧
    (7 : Service) ≠ 0 ∧ (7 : Byte).toNat = (7 : Service).val ∧ vget placed.areas 7 = .joined ∧
    vget placed.areas 7 ≠ .separate 7 ∧
    ({ placed with areas := vset placed.areas 7 (.separate 7) } : State).newRecords (fun _ => true) ≤ placed.freeCount ∧
    vget crowded.areas 1 ≠ .joined ∧
    crowded.freeCount < ({ crowded with areas := vset crowded.areas 1 .joined } : State).newRecords (fun _ => true) := by
  refine ⟨by decide, by decide, test_placed_ok.1, ?_⟩
  decide +kernel

/-- At 200 in use: 204 and 196 are held and 205 and 195 adopted at deadband 5; 201 is adopted at deadband 0, 200 not. -/
theorem witness_TemperatureReported : placed.takesRequest = true ∧ placed.temperatureInUse = 200 ∧
    placed.timing.deadband = 5 ∧
    [204, 196].map (fun t : Int => (t - placed.temperatureInUse).natAbs) = [4, 4] ∧
    [205, 195].map (fun t : Int => (t - placed.temperatureInUse).natAbs) = [5, 5] ∧
    ({ placed with timing := { Timing.reset with deadband := 0 } } : State).timing.deadband = 0 ∧
    (201 - placed.temperatureInUse).natAbs = 1 ∧ (0x00C9 : Half).toInt = 201 ∧ max (-100) (min 400 (0x7FFF : Half).toInt) = 400 := by
  decide +kernel

/-- Out of range; nothing pending; a line whose change the new time of 5 ms makes count; the stored settings repeated. -/
theorem witness_TimingWritten : (tabled aged).takesRequest = true ∧ 2 ≤ (2 : Byte).toNat ∧
    (1 : Byte).toNat = FadeShape.constantDb.code ∧ (tabled aged).NotchesOk ∧
    (∀ l, (vget (tabled aged).cues l).raw = (vget (tabled aged).cues l).debounced ∨
      (vget (tabled aged).cues l).held < 5) ∧
    (let s := cued ⟨.rising, .wake, .ok, true, 19, false, false, false⟩ (tabled aged)
     s.takesRequest = true ∧ s.NotchesOk ∧ s.timing ≠ { Timing.reset with debounce := 5 } ∧
       (vget s.cues 7).raw ≠ (vget s.cues 7).debounced ∧ 5 ≤ (vget s.cues 7).held) ∧
    (tabled aged).timing = Timing.reset :=
  ⟨by decide, by decide, by decide, test_aged_ok, by decide +kernel,
    ⟨by decide, test_aged_ok, by decide, by decide +kernel, by decide +kernel⟩, rfl⟩

/-- A command that writes none of the records; a step that tries to separate the nave. -/
theorem witness_BuildingKept : (∀ pins, Instr.clearing 0 ≠ .powerOnReset pins) ∧
    (∀ a b c, Instr.clearing 0 ≠ .setStation a b c) ∧ (∀ a, Instr.clearing 0 ≠ .clearStation a) ∧
    (∀ p, Instr.clearing 0 ≠ .setZone p) ∧ (∀ a b c, Instr.clearing 0 ≠ .setArea a b c) ∧
    (∀ p, Instr.clearing 0 ≠ .setTiming p) ∧ (∀ h, Instr.clearing 0 ≠ .setTemperature h) ∧
    (∃ t, exec (.clearing 0) (quieted placed) = .next t) ∧
    ({ placed with pending := [.setArea 0 1 1] } : State).NaveJoined ∧
    ∃ t, step { placed with pending := [.setArea 0 1 1] } = .next t :=
  ⟨nofun, nofun, nofun, nofun, nofun, nofun,
    nofun, ⟨_, rfl⟩, rfl, _, rfl⟩

/-- Out of range; already placed; absent; beyond the pool; a new placement, and a RETIRING one revived. -/
theorem witness_PlaceEffects : placed.takesRequest = true ∧ leavingHall.takesRequest = true ∧
    crowded.takesRequest = true ∧ placed.FeedsOk ∧ leavingHall.FeedsOk ∧ 16 ≤ (16 : Byte).toNat ∧
    32 ≤ (32 : Byte).toNat ∧ 8 ≤ (8 : Byte).toNat ∧ (15 : Byte).toNat = (15 : Source).val ∧
    (31 : Byte).toNat = (31 : StationId).val ∧ (7 : Byte).toNat = (7 : Service).val ∧
    placed.placement 0 = some ⟨0, 0, 0, .active⟩ ∧ placed.placement 15 = none ∧
    (vget placed.stations 31).present = false ∧ (vget placed.stations 1).present = true ∧
    (placed.setPlacement 15 (some ⟨1, 0, -40, .active⟩)).newRecords (· == 15) ≤ placed.freeCount ∧
    leavingHall.placement 0 = some ⟨0, 0, 0, .retiring⟩ ∧ (vget leavingHall.stations 0).present = true ∧
    (leavingHall.setPlacement 0 (some ⟨0, 0, 24, .active⟩)).newRecords (· == 0) ≤ leavingHall.freeCount ∧
    crowded.placement 15 = none ∧ (vget crowded.stations 1).present = true ∧
    crowded.freeCount < (crowded.setPlacement 15 (some ⟨1, 0, 0, .active⟩)).newRecords (· == 15) := by
  refine ⟨by decide, by decide, by decide, test_placed_ok.1, test_leavingHall_ok.1, ?_⟩
  decide +kernel

/-- Out of range; no placement; RETIRING; an absent station; the present one; beyond the pool; a move; both ends of a level. -/
theorem witness_PlacementEdits : placed.takesRequest = true ∧ leavingHall.takesRequest = true ∧
    crowded.takesRequest = true ∧ placed.FeedsOk ∧ 16 ≤ (16 : Byte).toNat ∧ 32 ≤ (32 : Byte).toNat ∧
    (15 : Byte).toNat = (15 : Source).val ∧ (31 : Byte).toNat = (31 : StationId).val ∧ placed.placement 15 = none ∧
    leavingHall.placement 0 = some ⟨0, 0, 0, .retiring⟩ ∧ placed.placement 0 = some ⟨0, 0, 0, .active⟩ ∧
    (vget placed.stations 31).present = false ∧ (vget placed.stations 0).present = true ∧
    (vget placed.stations 1).present = true ∧
    (placed.setPlacement 0 (some ⟨1, 0, 0, .active⟩)).newRecords (· == 0) ≤ placed.freeCount ∧
    crowded.placement 0 = some ⟨0, 0, 0, .active⟩ ∧ (vget crowded.stations 1).present = true ∧
    crowded.freeCount < (crowded.setPlacement 0 (some ⟨1, 0, 0, .active⟩)).newRecords (· == 0) ∧
    max (-40) (min 24 (0x8000 : Half).toInt) = -40 ∧ max (-40) (min 24 (0x7FFF : Half).toInt) = 24 := by
  refine ⟨by decide, by decide, by decide, test_placed_ok.1, ?_⟩
  decide +kernel

theorem witness_RetireEffects : placed.takesRequest = true ∧ leavingHall.takesRequest = true ∧ placed.FeedsOk ∧
    16 ≤ (16 : Byte).toNat ∧ (15 : Byte).toNat = (15 : Source).val ∧ placed.placement 15 = none ∧
    leavingHall.placement 0 = some ⟨0, 0, 0, .retiring⟩ ∧ placed.placement 0 = some ⟨0, 0, 0, .active⟩ := by
  refine ⟨by decide, by decide, test_placed_ok.1, ?_⟩
  decide +kernel

/-- A WAITING feed, in service and in STANDBY; a STEADY one that does not glide; one that glides. -/
theorem witness_DerivationResult : placed.queue = (0, 1) :: [] ∧ placed.feed (0, 1) = some Feed.fresh ∧
    Feed.fresh.state.isFadingOut = false ∧ placed.placement 0 = some ⟨0, 0, 0, .active⟩ ∧
    (inService .standby ⟨0, 0, false⟩ placed).queue = (0, 1) :: [] ∧
    ({ placed with queue := [(0, 0), (0, 1)] } : State).queue = (0, 0) :: [(0, 1)] ∧
    placed.feed (0, 0) = some steady ∧ steady.state.isFadingOut = false ∧
    (placed.setFeed (0, 0) (some { steady with glide := some ⟨9, none, 1, 480⟩ })).feed (0, 0) =
      some { steady with glide := some ⟨9, none, 1, 480⟩ } := by decide +kernel

theorem witness_DelayArithmetic :
    let low : Point := ⟨-32768, -32768, -32768⟩
    let high : Point := ⟨32767, 32767, 32767⟩
    (-32768 ≤ low.x ∧ low.x ≤ 32767 ∧ -32768 ≤ low.y ∧ low.y ≤ 32767 ∧ -32768 ≤ low.z ∧ low.z ≤ 32767) ∧
    (-32768 ≤ high.x ∧ high.x ≤ 32767 ∧ -32768 ≤ high.y ∧ high.y ≤ 32767 ∧ -32768 ≤ high.z ∧ high.z ≤ 32767) ∧
    (∀ t : Fin 2, let T := [(-100 : Int), 400][t]; -100 ≤ T ∧ T ≤ 400) ∧ (0 : Int) ≤ 0 ∧ (-1 : Int) < 0 ∧
    (0 : Int) < 113509 ∧ (113509 : Int) ≤ 113509 := by decide

/-- Both ends of a gain; a fade level of a half; a block and a sample above the floor and below full scale. -/
theorem witness_LevelArithmetic : (-192 : Int) < -191 ∧ (48 : Int) ≤ 48 ∧
    ((0 : Rat) < 1 / 2 ∧ (1 / 2 : Rat) ≤ 1 ∧ 48 / 10 * (1 - 1 / 2 : Rat) = (12 : Nat) / (5 : Nat)) ∧
    -240 < blockLevel (480 * 8388607 ^ 2) ∧ blockLevel (480 * 8388607 ^ 2) < 0 ∧ -240 < sampleLevel 8388607 ∧
    sampleLevel 8388607 < 0 := by decide +kernel

/-- A glide at its end with a pending tap and without, and one a frame short of it; fades due and not; the fade-out of a
RETIRING placement's last feed. -/
theorem witness_GlidesAndFadesEnd :
    let gliding (position : Nat) (pending : Option Nat) : Feed := { steady with glide := some ⟨30000, pending, position, 3840⟩ }
    let rising (due : Bool) : Feed := { steady with state := .fadingIn ⟨959 / 960, 1 / 960, due⟩ }
    (∀ (position : Nat) (pending : Option Nat),
      (placed.setFeed (15, 23) (some (gliding position pending))).feed (15, 23) = some (gliding position pending)) ∧
    3839 < 3840 ∧ 3840 ≤ 3840 ∧
    (∀ due : Bool, (placed.setFeed (15, 23) (some (rising due))).feed (15, 23) = some (rising due)) ∧
    leavingHall.feed (0, 0) = some { steady with state := .fadingOut ⟨1 / 14400, -(1 / 14400), true⟩ } ∧
    (0, 0) ∉ leavingHall.queue := by
  refine ⟨fun _ _ => State.feed_setFeed_same _ _ _, by decide, by decide, fun _ => State.feed_setFeed_same _ _ _,
    by decide +kernel, by decide +kernel⟩

theorem witness_SetSourceEffects : placed.takesRequest = true ∧ 16 ≤ (16 : Byte).toNat ∧ 2 ≤ (2 : Byte).toNat ∧
    (15 : Byte).toNat = (15 : Source).val ∧ (1 : Byte).toNat = (if true then 1 else 0) ∧
    (0 : Byte).toNat = (if false then 1 else 0) := by decide

/-- The stored mode; a source with no placement; a placed one in STANDBY and outside it. -/
theorem witness_SetGateModeEffects : placed.takesRequest = true ∧ 16 ≤ (16 : Byte).toNat ∧ 3 ≤ (3 : Byte).toNat ∧
    (15 : Byte).toNat = (15 : Source).val ∧ (2 : Byte).toNat = GateMode.forcedShut.code ∧
    (vget placed.sources 15).gateMode = .auto ∧ (vget placed.sources 0).gateMode ≠ .forcedShut ∧
    placed.isPlaced 15 = false ∧ (inService .standby ⟨0, 0, false⟩ placed).takesRequest = true ∧
    (inService .standby ⟨0, 0, false⟩ placed).service.state = .standby ∧ placed.isPlaced 0 = true ∧
    placed.service.state ≠ .standby := by decide +kernel

/-- Before the block's end and at it; under the AUTO drive and under none. -/
theorem witness_BlockEvaluated : placed.blockCount < 480 ∧
    (let s : State := { placed with blockCount := 480 }
     480 ≤ s.blockCount ∧ s.service.state ≠ .standby ∧ s.isPlaced 0 = true ∧ (vget s.sources 0).gateMode = .auto ∧
       s.isPlaced 15 = false) := by decide +kernel

theorem witness_GateEvents :
    (gated (.opening ⟨47 / 48, 1 / 48, true⟩ false) placed).gate 15 = .opening ⟨47 / 48, 1 / 48, true⟩ false ∧
    (gated (.closing ⟨1 / 48, -(1 / 48), true⟩) placed).gate 15 = .closing ⟨1 / 48, -(1 / 48), true⟩ ∧
    (gated (.closing ⟨1 / 24, -(1 / 48), false⟩) placed).gate 15 = .closing ⟨1 / 24, -(1 / 48), false⟩ ∧
    (∀ timer ∈ [10, 11], let s : State :=
        { placed.setChannel 0 { Channel.reset with gate := .hold timer } with blockCount := 480 }
     480 ≤ s.blockCount ∧ s.service.state ≠ .standby ∧ s.isPlaced 0 = true ∧ (vget s.sources 0).gateMode = .auto ∧
       blockLevel (vget s.channels 0).blockEnergy < (vget s.sources 0).closeThreshold ∧ s.gate 0 = .hold timer) ∧
    (let s : State := { placed.setChannel 0 { Channel.reset with gate := .opened } with
       sources := vset placed.sources 0 { SourceRecord.reset with holdTime := 0 } }
     s.gate 0 = .opened ∧ (vget s.sources 0).holdTime = 0) := by
  decide +kernel

/-- R7, R56, R58: in a zone at base level −192 a feed of a placement at level 0 has base gain −192 and factor 0, and one of a
placement at level +24 has base gain and effective gain −168, whose factor R58 gives. -/
theorem test_silent_zone : let s (level : Int) : State := { placed.setPlacement 0 (some ⟨0, 0, level, .active⟩) with
      zones := vset placed.zones 1 { vget placed.zones 1 with baseLevel := -192 } }
    let gains (level : Int) := ((after (exec .derivation (s level))).feed (0, 1)).map fun f => (f.baseGain, f.appliedFactor)
    gains 0 = some (-192, 0) ∧ gains 24 = some (-168, factorOf (-168)) ∧ 0 < factorOf (-168) := by decide +kernel

/-- R148: a fall of chip select in a transaction in progress changes nothing. -/
theorem test_second_fall : after (exec .transactionStart (cutOff State.reset)) = cutOff State.reset := by decide +kernel

/-- R88: a gate held for 500 ms does not expire while 490 ms are left. -/
theorem test_hold_goes_on : let s : State :=
      { placed.setChannel 0 { Channel.reset with gate := .hold 490 } with blockCount := 480 }
    (after (exec (.holdExpiry 0) s)).gate 0 = .hold 490 ∧ (after (exec .blockEvaluation s)).gate 0 = .hold 480 := by
  decide +kernel

/-- R92: an evaluation turns a gate that closes at gain 1/2 to OPENING, and a RETIRE with it closes the gate from one attack
step (1/240) above; after a frame the gain is there already. -/
theorem test_retire_after_turn : let c : Channel := { Channel.reset with
      gate := .closing ⟨1 / 2, -(1 / 19200), false⟩, blockEnergy := 480 * 8388608 ^ 2 }
    let s := after (exec .blockEvaluation { placed.setChannel 0 c with blockCount := 480 })
    s.gate 0 = .opening ⟨1 / 2, 1 / 240, false⟩ true ∧ (s.gate 0).advance = .opening ⟨121 / 240, 1 / 240, false⟩ false ∧
    (after (exec (.retire 0) s)).gate 0 = .closing ⟨121 / 240, -(1 / 19200), false⟩ := by decide +kernel

/-- Each movement at its end, and one of each a frame or more short of it. -/
theorem witness_MovementsEnd :
    (vget (placed.setChannel 15 { Channel.reset with trimFactor := ⟨1, 2, some 0⟩ }).channels 15).trimFactor.left = some 0 ∧
    (vget placed.channels 15).trimFactor.left ≠ some 0 ∧
    (∀ left : Fin 2, let sec : NotchSection := ⟨207, true, ⟨6, 0, some left.val⟩, FilterMemory.empty⟩
      vget (vget (placed.setSections 15 (vset (vget placed.sections 15) 15 (some sec))).sections 15) 15 = some sec) ∧
    (∀ left : Fin 2, let f : Feed := { steady with smoothing := some ⟨0, 0, 1, some left.val⟩ }
      (placed.setFeed (15, 23) (some f)).feed (15, 23) = some f) ∧
    (∀ due : Bool, let s : State := { placed with mixers := vset placed.mixers 23 { Mixer.reset with mute := ⟨959 / 960, 1 / 960, due⟩ } }
      (vget s.mixers 23).mute.due = due ∧ (vget s.mixers 23).mute.step ≠ 0) ∧
    (∀ due : Bool, let s := inService .active ⟨239 / 240, 1 / 240, due⟩ placed
      s.service.ramp.due = due ∧ 0 < s.service.ramp.step) ∧
    (let s : State := { placed with service := ⟨.active, ⟨1 / 240, -(1 / 240), true⟩, some .resetPin, false⟩ }
     s.service.ramp.due = true ∧ s.service.ramp.step < 0 ∧ s.service.restart ≠ none) := by decide +kernel

/-- The notch that the high altar's table gives up. -/
theorem test_altar_weakest : IsWeakest altar ⟨120, 12, .dynamic, 95, 4⟩ := by
  refine ⟨by decide, rfl, ?_⟩
  decide

/-- A hit at one band's distance, of the lower of two and of the deepest; room; an eviction; a drop. -/
theorem witness_RingCandidateHandled : (tabled cantor).detectorRuns 0 = true ∧ (tabled cantor).NotchesOk ∧
    (⟨96, 12, .dynamic, 40, 1⟩ : Notch) ∈ cantor ∧ bandsMatch 97 96 ∧ bandsMatch 95 96 ∧
    (∀ m ∈ cantor, bandsMatch 97 m.band → m.band ≠ 97 ∧ 96 ≤ m.band) ∧
    (⟨207, 36, .dynamic, 119, 255⟩ : Notch) ∈ aged ∧ (∀ n ∈ cantor, ¬ bandsMatch 98 n.band) ∧ cantor.length < 8 ∧
    (tabled altar).detectorRuns 0 = true ∧ (tabled altar).NotchesOk ∧ (∀ n ∈ altar, ¬ bandsMatch 130 n.band) ∧
    altar.length = 8 ∧ IsWeakest altar ⟨120, 12, .dynamic, 95, 4⟩ ∧ (tabled organ).detectorRuns 0 = true ∧
    (tabled organ).NotchesOk ∧ (∀ n ∈ organ, ¬ bandsMatch 64 n.band) ∧ organ.length = 8 ∧
    ∀ n ∈ organ, n.kind = .fixed := by
  refine ⟨by decide +kernel, test_cantor_ok, by decide, by unfold bandsMatch; decide, by unfold bandsMatch; decide,
    by unfold bandsMatch; decide, by decide, by unfold bandsMatch; decide, by decide, by decide +kernel, test_altar_ok,
    by unfold bandsMatch; decide, by decide, test_altar_weakest, by decide +kernel, test_organ_ok,
    by unfold bandsMatch; decide, by decide, by decide⟩

/-- Three loud samples of one click. -/
def click : List Int := [4000000, -8000000, 4000000]

/-- Where 34 bands lie at −240 and some band at −89 or more, a margin of 24 finds a candidate. -/
theorem candidateBand_of_quiet_low {levels : Band → Int} (low : ∀ b : Band, b.val < 34 → levels b ≤ -240) {c : Band}
    (loud : -89 ≤ levels c) : ∃ b, candidateBand levels 24 = some b := by
  have top := le_highestBand levels
  have sum : (allBands.map levels).sum ≤ 34 * -240 + 174 * levels (highestBand levels) := by
    calc (allBands.map levels).sum
        ≤ (allBands.map fun b : Band => if b.val < 34 then -240 else levels (highestBand levels)).sum :=
          List.sum_le_sum fun b _ => by split <;> [exact low b ‹_›; exact top b]
      _ = _ := by
        have split (m : Int) (b : Band) : (if b.val < 34 then -240 else m) =
            (if b.val < 34 then -240 else 0) + (if b.val < 34 then 0 else 1) * m := by split <;> simp
        have quiet : (allBands.map fun b : Band => if b.val < 34 then (-240 : Int) else 0).sum = 34 * -240 := by decide +kernel
        have others : (allBands.map fun b : Band => if b.val < 34 then (0 : Int) else 1).sum = 174 := by decide +kernel
        rw [List.map_congr_left fun b _ => split _ b, List.sum_map_add, List.sum_map_mul_right, quiet, others]
  have := top c
  refine ⟨highestBand levels, ?_⟩
  unfold candidateBand meanLevel
  exact if_pos ⟨by omega, by omega⟩

/-- A click has a candidate at the least margin: its 34 lowest bands are at the floor, and its highest is loud. -/
theorem test_click_candidate : ∃ b, candidateBand (vget (bandLevels click)) 24 = some b := by
  have low : ∀ i : Fin 34, vget (bandLevels click) ⟨i.val, by omega⟩ ≤ -240 := by decide +kernel
  exact candidateBand_of_quiet_low (fun b hb => low ⟨b.val, hb⟩) (c := 207) (by decide +kernel)

/-- The part of `tabled` at the end of a window, its detector of source 0 as given, at the least margin and persistence. -/
def windowed (t : List Notch) (d : Detector) : State :=
  { (tabled t).setDetector 0 d with
    sources := vset placed.sources 0 { SourceRecord.reset with detectorEnable := true, ringMargin := 24, persistence := 2 }
    windowCount := 1024 }

theorem windowed_runs (t : List Notch) (d : Detector) (src : Source)
    (h : (vget (windowed t d).detectors src).analysing = true) : (windowed t d).detectorRuns src = true := by
  rcases eq_or_ne src 0 with rfl | hne
  · show (windowed [] Detector.idle).detectorRuns 0 = true
    decide +kernel
  · simp [windowed, State.setDetector, vget_vset_other _ _ hne.symm, tabled, placed, State.setFeed, State.setPlacement, hall,
      State.writeStation, State.reset, Detector.idle] at h

/-- A window in progress; one that ends in silence; one whose candidate makes a run of one a run of two and is handed over;
a candidate that joins a run and one that begins another. -/
theorem witness_WindowEnds : placed.windowCount < 1024 ∧
    (let s := windowed cantor ⟨5, some 98, true, [0, 0]⟩
     1024 ≤ s.windowCount ∧ (∀ src, (vget s.detectors src).analysing = true → s.detectorRuns src = true) ∧
       ∀ x ∈ (vget s.detectors 0).window, x = 0) ∧
    (∃ b, let s := windowed organ ⟨1, some b, true, click⟩
     1024 ≤ s.windowCount ∧ (∀ src, (vget s.detectors src).analysing = true → s.detectorRuns src = true) ∧
       (vget s.detectors 0).analysing = true ∧
       candidateBand (vget (bandLevels (vget s.detectors 0).window)) (vget s.sources 0).ringMargin = some b ∧
       (vget s.sources 0).persistence ≤ ((vget s.detectors 0).afterWindow (some b)).count) ∧
    (let d : Detector := ⟨3, some 98, false, []⟩
     d.runBand = some 98 ∧ 0 < d.count ∧ bandsMatch 97 98 ∧ bandsMatch 99 98 ∧ ¬ bandsMatch 100 98) := by
  obtain ⟨b, hb⟩ := test_click_candidate
  have ends (b : Band) : 2 ≤ ((⟨1, some b, true, click⟩ : Detector).afterWindow (some b)).count := by
    simp [Detector.afterWindow]
  refine ⟨by decide, ⟨by decide, windowed_runs _ _, by decide +kernel⟩,
    ⟨b, Nat.le_refl _, windowed_runs _ _, rfl, hb, ends b⟩, rfl, by decide, ?_⟩
  unfold bandsMatch
  decide

/-- A band that stands 84 above the mean is the candidate at a margin of 36, and of two such the lower. -/
theorem test_candidateBand : candidateBand (fun b => if b = 97 ∨ b = 99 then -100 else -184) 36 = some 97 ∧
    candidateBand (fun b => if b = 97 then -121 else -184) 36 = none := by decide +kernel

/-- A second in progress; notches that age at its end, one to 6 and one out of the table. -/
theorem witness_NotchesAge : (tabled aged).NotchesOk ∧ (tabled aged).service.state ≠ .standby ∧
    (tabled aged).secondCount < 48000 ∧ ({ tabled aged with secondCount := 48000 } : State).NotchesOk ∧
    (inService .standby ⟨0, 0, false⟩ (tabled [])).service.state = .standby ∧
    (inService .standby ⟨0, 0, false⟩ (tabled [])).NotchesOk ∧ (tabled aged).timing.notchDecay = 120 ∧
    (tabled aged).stepped = [] ∧ (⟨0, 12, .dynamic, 120, 1⟩ : Notch) ∈ vget (tabled aged).notches 0 ∧
    (⟨96, 11, .dynamic, 120, 1⟩ : Notch) ∈ vget (tabled aged).notches 0 ∧
    (⟨207, 36, .dynamic, 119, 255⟩ : Notch) ∈ vget (tabled aged).notches 0 :=
  ⟨test_aged_ok, by decide, by decide, test_aged_ok, rfl,
    notchesOk_at_rest (by unfold State.NotchTablesOk; decide +kernel) (by decide +kernel), by decide, rfl, by decide +kernel,
    by decide +kernel, by decide +kernel⟩

/-- Sixteen sections in use: those below 14 serve notches, 14 and 15 are outgoing with 7 frames left each. -/
def busy : Vector (Option NotchSection) 16 :=
  vgen fun i => some ⟨⟨2 * i.val, by omega⟩, decide (14 ≤ i.val), ⟨12, 0, some 7⟩, FilterMemory.empty⟩

/-- A free section with a taken one below it; two outgoing sections that started together; none to take. -/
theorem witness_SectionsFollow :
    (let secs := vset (vset busy 15 none) 3 none
     vget secs 3 = none ∧ ∀ j, j < 3 → vget secs j ≠ none) ∧
    ((∀ j, vget busy j ≠ none) ∧ (vget busy 14).any (fun sec => sec.outgoing && sec.framesLeft == 7) = true ∧
      ∀ j, ∀ other ∈ vget busy j, other.outgoing = true → 7 = other.framesLeft ∧ 14 ≤ j) ∧
    (let secs : Vector (Option NotchSection) 16 := vgen fun i => some ⟨⟨2 * i.val, by omega⟩, false, Slide.rest 12, FilterMemory.empty⟩
     ∀ j, (vget secs j).any (fun sec => !sec.outgoing) = true) := by decide +kernel

/-- Out of range; too close; a full table of FIXED notches; room; an eviction. -/
theorem witness_AddNotchEffects : (tabled organ).takesRequest = true ∧ (tabled organ).NotchesOk ∧
    16 ≤ (16 : Byte).toNat ∧ 208 ≤ (208 : Byte).toNat ∧ (15 : Byte).toNat = (15 : Source).val ∧
    (207 : Byte).toNat = (207 : Band).val ∧ bandsMatch 101 100 ∧ (⟨100, 12, .fixed, 0, 0⟩ : Notch) ∈ organ ∧
    (∀ n ∈ organ, ¬ bandsMatch 207 n.band) ∧ organ.length = 8 ∧ (∀ n ∈ organ, n.kind = .fixed) ∧
    (tabled cantor).takesRequest = true ∧ (tabled cantor).NotchesOk ∧ (∀ n ∈ cantor, ¬ bandsMatch 207 n.band) ∧
    cantor.length < 8 ∧ (tabled altar).takesRequest = true ∧ (tabled altar).NotchesOk ∧
    (∀ n ∈ altar, ¬ bandsMatch 207 n.band) ∧ altar.length = 8 ∧ IsWeakest altar ⟨120, 12, .dynamic, 95, 4⟩ := by
  refine ⟨by decide, test_organ_ok, by decide, by decide, by decide, by decide, by unfold bandsMatch; decide, by decide,
    by unfold bandsMatch; decide, by decide, by decide, by decide, test_cantor_ok, by unfold bandsMatch; decide,
    by decide, by decide, test_altar_ok, by unfold bandsMatch; decide, by decide, test_altar_weakest⟩

/-- Out of range; no notch at the band; a notch there. -/
theorem witness_NotchEdits : (tabled altar).takesRequest = true ∧ (tabled altar).NotchesOk ∧ 16 ≤ (16 : Byte).toNat ∧
    208 ≤ (208 : Byte).toNat ∧ 2 ≤ (2 : Byte).toNat ∧ (0 : Byte).toNat = (0 : Source).val ∧
    (207 : Byte).toNat = (207 : Band).val ∧ (∀ n ∈ altar, n.band ≠ 207) ∧ (144 : Byte).toNat = (144 : Band).val ∧
    (⟨144, 24, .dynamic, 10, 3⟩ : Notch) ∈ vget (tabled altar).notches 0 ∧ (1 : Byte).toNat = NotchKind.dynamic.code := by
  refine ⟨by decide, test_altar_ok, ?_⟩
  decide +kernel

/-- Every refusal, every action, both ends of the edge codes; a sample with nothing due. -/
theorem witness_CuesSetAndSampled : placed.takesRequest = true ∧ 8 ≤ (8 : Byte).toNat ∧ 4 ≤ (4 : Byte).toNat ∧
    6 ≤ (6 : Byte).toNat ∧ 16 ≤ (16 : Byte).toNat ∧ 32 ≤ (32 : Byte).toNat ∧ 3 ≤ (3 : Byte).toNat ∧
    (7 : Byte).toNat = (7 : Line).val ∧
    (let p : CuePayload := ⟨7, 3, 1, 15, 31, 7, 0x7FFF, 0⟩
     p.edge = 3 ∧ p.action = 1 ∧ p.source.toNat = (15 : Source).val ∧ p.station.toNat = (31 : StationId).val ∧
       p.service.toNat = (7 : Service).val ∧ max (-40) (min 24 p.level.toInt) = 24) ∧
    (let p : CuePayload := ⟨7, 0, 4, 15, 255, 255, 0, 2⟩
     p.edge = 0 ∧ p.action = 4 ∧ p.source.toNat = (15 : Source).val ∧ p.gateMode.toNat = GateMode.forcedShut.code) ∧
    (let s := cued ⟨.both, .wake, .ok, true, 19, false, false, false⟩ placed
     ∀ l, (vget s.cues l).raw = (vget s.cues l).debounced ∨ (vget s.cues l).held < s.timing.debounce) := by
  decide +kernel

/-- Changes that match and that do not, at the debounce time, one in an ended transaction; none counted in a restart or a
millisecond early; a PLACE and a WAKE stored. -/
theorem witness_CueActsAsTheRequest :
    (let s := cued ⟨.rising, .place 15 1 7 24, .ok, true, 20, false, false, false⟩ placed
     s.service.restart = none ∧ (vget s.cues 7).raw ≠ (vget s.cues 7).debounced ∧
       s.timing.debounce ≤ (vget s.cues 7).held ∧
       (vget s.cues 7).edge = .rising ∧ (vget s.cues 7).raw = true ∧ (-40 : Int) ≤ 24 ∧ (24 : Int) ≤ 24) ∧
    (let s := cued ⟨.both, .wake, .ok, false, 100, true, false, true⟩ placed
     s.service.restart = none ∧ (vget s.cues 7).raw ≠ (vget s.cues 7).debounced ∧
       s.timing.debounce ≤ (vget s.cues 7).held ∧ (vget s.cues 7).edge = .both) ∧
    (let s := cued ⟨.falling, .none, .ok, true, 20, false, false, false⟩ (cutOff placed)
     s.takesRequest = false ∧ s.service.restart = none ∧ (vget s.cues 7).raw ≠ (vget s.cues 7).debounced ∧
       s.timing.debounce ≤ (vget s.cues 7).held ∧ (vget s.cues 7).edge = .falling ∧ (vget s.cues 7).raw = true) ∧
    (restarting placed).service.restart ≠ none ∧
    (let s := cued ⟨.both, .wake, .ok, true, 19, false, false, false⟩ placed
     (vget s.cues 7).held < s.timing.debounce ∧ (vget s.cues 0).raw = (vget s.cues 0).debounced) := by decide +kernel

/-- With no switch in flight in each state, in the down phase toward each before and at gain 0, and in the up phase before
and at gain 1 with something pending. -/
theorem witness_ClockSwitches :
    let c := ClockUnit.reset
    (clocked c).takesRequest = true ∧ 2 ≤ (2 : Byte).toNat ∧ (1 : Byte).toNat = ClockSelection.external.code ∧
    c.flight = none ∧ c.state = .internal ∧
    (clocked { c with selection := .external, state := .lockedExternal }).clock.state ≠ .internal ∧
    (∀ g ∈ [(0 : Rat), 1 / 240], let d : ClockUnit :=
        { c with selection := .internal, state := .lockedExternal, flight := some (.down .internal), gain := g }
      (clocked d).clock.flight = some (.down .internal) ∧ ((clocked d).clock.gain = 0 ↔ g = 0)) ∧
    (let d : ClockUnit := { c with selection := .external, flight := some (.down .awaitingExternal), gain := 0 }
     (clocked d).clock.flight = some (.down .awaitingExternal) ∧ (clocked d).clock.gain = 0) ∧
    ∀ g ∈ [(1 : Rat), 239 / 240], let d : ClockUnit := { c with flight := some .up, pendingSelection := some .external, gain := g }
      (clocked d).clock.flight = some .up ∧ ((clocked d).clock.gain = 1 ↔ g = 1) := by decide +kernel

/-- Each state and switch in which an arrival or a missed frame counts, at the ends of the interval and of the counts. -/
theorem witness_LockAndLoss :
    let waiting : ClockUnit := { ClockUnit.reset with selection := .external, state := .awaitingExternal, gain := 0 }
    let locking : ClockUnit := { waiting with presence := 24000, flight := some (.down .lockedExternal) }
    let locked : ClockUnit := { ClockUnit.reset with selection := .external, state := .lockedExternal }
    (clocked ClockUnit.reset).clock.state = .internal ∧ (clocked waiting).clock.state = .awaitingExternal ∧
    (clocked waiting).clock.selection = .external ∧ (clocked waiting).clock.flight = none ∧
    (clocked { waiting with presence := 22222 }).clock.presence < 23999 ∧
    (clocked { waiting with presence := 23999 }).clock.presence = 23999 ∧
    ((99 : Rat) / 100 ≤ 99 / 100 ∧ (99 : Rat) / 100 ≤ 101 / 100) ∧ ((99 : Rat) / 100 ≤ 101 / 100 ∧ (101 : Rat) / 100 ≤ 101 / 100) ∧
    ¬ ((99 : Rat) / 100 ≤ 102 / 100 ∧ (102 : Rat) / 100 ≤ 101 / 100) ∧
    (clocked locking).clock.flight = some (.down .lockedExternal) ∧ (clocked locking).clock.pendingSelection = none ∧
    (clocked { locking with pendingSelection := some .internal }).clock.flight = some (.down .lockedExternal) ∧
    (clocked locked).clock.state = .lockedExternal ∧ (98 : Rat) / 100 < 99 / 100 ∧
    (clocked { locked with missed := 2 }).clock.missed < 3 ∧ (clocked { locked with missed := 3 }).clock.missed = 3 ∧
    (clocked locked).clock.flight ≠ some (.down .internal) ∧
    (clocked { locked with selection := .internal, flight := some (.down .internal) }).clock.flight =
      some (.down .internal) := by decide +kernel

theorem witness_StandbyAndWake :
    (inService .active ⟨1, 0, false⟩ placed).takesRequest = true ∧
    (inService .enteringStandby ⟨1 / 2, -(1 / 14400), false⟩ placed).takesRequest = true ∧
    (inService .standby ⟨0, 0, false⟩ placed).takesRequest = true ∧
    (inService .active ⟨1, 0, false⟩ placed).service.state = .active ∧
    (inService .enteringStandby ⟨1 / 2, -(1 / 14400), false⟩ placed).service.state = .enteringStandby ∧
    (inService .standby ⟨0, 0, false⟩ placed).service.state = .standby := by decide +kernel

/-- An entry in progress, and one whose ramp has reached 0. -/
theorem witness_EntryCompletes : ∀ due : Bool, let s := inService .enteringStandby ⟨1 / 14400, -(1 / 14400), due⟩ placed
    s.service.state = .enteringStandby ∧ s.service.restart = none ∧ s.service.ramp.due = due := by decide +kernel

/-- The pin high, in a restart and outside one; the pin low. -/
theorem witness_RestartTriggered : placed.takesRequest = true ∧ placed.service.restart = none ∧
    placed.service.resetPinLow = false ∧ (restarting placed).service.restart ≠ none ∧
    (restarting placed).service.resetPinLow = false ∧
    ({ placed with service := ⟨.active, ⟨1, 0, false⟩, some .resetPin, true⟩ } : State).service.resetPinLow = true := by
  decide +kernel

/-- R167: a fall of the pin, its release, and a second fall in the restart, which lengthens it. -/
theorem test_resetPin : (after (exec .resetPin placed)).service.restart = some .resetPin ∧
    (after (exec .resetPin placed)).service.resetPinLow = true ∧
    (after (exec .resetPin (after (exec .resetPin placed)))).service.resetPinLow = false ∧
    (after (exec .resetPin (restarting placed))).service = { (restarting placed).service with resetPinLow := true } := by
  decide +kernel

/-- No restart; the quiet phase in progress; the pin low; the quiet phase over, its ramp due or at 0. -/
theorem witness_ClearingRebuilds : placed.service.restart = none ∧
    (let s := restarting placed
     s.service.restart = some .restartRequest ∧ s.service.ramp.due = false ∧ s.service.ramp.value ≠ 0) ∧
    ({ placed with service := ⟨.active, ⟨0, 0, false⟩, some .resetPin, true⟩ } : State).service.resetPinLow = true ∧
    (let s := quieted placed
     s.service.restart = some .restartRequest ∧ s.service.resetPinLow = false ∧ s.service.ramp.due = false ∧
       s.service.ramp.value = 0) ∧
    (let s : State := { placed with service := ⟨.active, ⟨1 / 240, -(1 / 240), true⟩, some .resetPin, false⟩ }
     s.service.restart = some .resetPin ∧ s.service.resetPinLow = false ∧ s.service.ramp.due = true ∧
       s.service.ramp.step < 0) := by decide +kernel

/-- The part of `placed` with the gate of source 15 open has nothing due. -/
theorem witness_DueEventsTaken : (gated .opened placed).NothingDue := nothingDue_of_check (by decide +kernel)

theorem test_nothing_due : (gated .opened placed).takeDue = gated .opened placed := State.takeDue_still witness_DueEventsTaken

/-- A frame of the part's own clock; in LOCKED_EXTERNAL one that no arrival has started and one that an arrival has. -/
theorem witness_FrameAdvances :
    let locked : ClockUnit := { ClockUnit.reset with selection := .external, state := .lockedExternal }
    (clocked locked).clock.state = .lockedExternal ∧
    (clocked locked).clock.frameStarted = false ∧ (clocked { locked with frameStarted := true }).clock.frameStarted = true ∧
    (let s := gated .opened placed
     s.clock.state ≠ .lockedExternal ∧ s.takeDue.HistoriesOk) ∧
    (let secs : Vector (Option NotchSection) 16 := sectionsAtRest (altar.take 3)
     (sectionChain secs).map Prod.fst = [0] ++ 1 :: [2] ∧ (vget secs 1).isSome = true ∧ vget secs 3 = none) := by
  simp only [test_nothing_due]
  unfold State.HistoriesOk
  decide +kernel

theorem witness_RampsAndMovements :
    let rising (value : Rat) : Ramp := ⟨value, 1 / 48, false⟩
    let falling (value : Rat) : Ramp := ⟨value, -(1 / 48), false⟩
    ((rising 0).due = false ∧ 0 < (rising 0).step ∧ (rising 0).value + (rising 0).step < 1) ∧
    1 ≤ (rising (47 / 48)).value + (rising (47 / 48)).step ∧
    ((falling 1).due = false ∧ (falling 1).step < 0 ∧ 0 < (falling 1).value + (falling 1).step) ∧
    (falling (1 / 48)).value + (falling (1 / 48)).step ≤ 0 ∧ (960 ≤ 960 ∧ 0 < 960) ∧
    steady.state ≠ .waiting ∧ ({ steady with smoothing := none } : Feed).smoothing = none ∧
    steady.smoothing = some ⟨-12, Slide.rest (gainFactor (-12))⟩ ∧ (-12 : Int) ≠ -18 := by decide +kernel

/-- A frame that delivers its ports, and one in holdover. -/
theorem witness_FrameOutputs : (gated .opened placed).clock.state ≠ .lockedExternal ∧
    (gated .opened placed).takeDue.clock.state ≠ .awaitingExternal ∧
    (let waiting : ClockUnit := { ClockUnit.reset with selection := .external, state := .awaitingExternal, gain := 0 }
     (clocked waiting).clock.state ≠ .lockedExternal ∧ (clocked waiting).takeDue.clock.state = .awaitingExternal) := by
  simp only [test_nothing_due]
  refine ⟨by decide +kernel, by decide +kernel, by decide +kernel, ?_⟩
  rw [State.takeDue_still (nothingDue_of_check (by decide +kernel))]
  decide

theorem witness_FeedsStayInOrder :
    ({ placed with pending := [.retire 0] } : State).FeedsOk ∧ ∃ t, step { placed with pending := [.retire 0] } = .next t :=
  ⟨feedsOk_of_check (by decide +kernel), _, rfl⟩

theorem witness_PlacementsStayReconciled :
    ({ placed with pending := [.move 0 1] } : State).PlacementsOk ∧
    ∃ t, step { placed with pending := [.move 0 1] } = .next t :=
  ⟨placementsOk_of_check (by decide +kernel), _, rfl⟩

theorem witness_GainsStayCurrent :
    ({ placed with pending := [.derivation] } : State).GainsOk ∧
    ∃ t, step { placed with pending := [.derivation] } = .next t :=
  ⟨gainsOk_of_check (by decide +kernel), _, rfl⟩

theorem witness_NotchTablesStayInShape :
    ({ tabled altar with pending := [.ringCandidate 0 130] } : State).NotchesOk ∧
    ∃ t, step { tabled altar with pending := [.ringCandidate 0 130] } = .next t :=
  ⟨test_altar_ok, _, rfl⟩

theorem witness_ValuesStayInRange :
    ({ placed with pending := [.derivation] } : State).RangesOk ∧
    ({ placed with pending := [.derivation] } : State).HistoriesOk ∧
    ∃ t, step { placed with pending := [.derivation] } = .next t := by
  have feeds : ∀ k, ∀ f ∈ placed.feed k, f = steady ∨ f = Feed.fresh := by decide +kernel
  have acts : ∀ l, (vget placed.cues l).action = .none := by decide +kernel
  have shut : ∀ src, placed.gate src = .closed := by decide +kernel
  have levels : ∀ src, ∀ p ∈ placed.placement src, -40 ≤ p.level ∧ p.level ≤ 24 := by decide +kernel
  refine ⟨⟨?_, by decide, by decide, ?_, ?_, fun src p h => levels src p h, fun l src st sv level h => ?_,
    fun src r h => ?_, fun src r turned h => ?_, ?_, fun k f h => ?_⟩, ?_, _, rfl⟩
  · unfold Timing.inRange; decide
  · unfold ZoneRecord.inRange; decide +kernel
  · unfold SourceRecord.inRange; decide +kernel
  · have := acts l
    simp only at h
    rw [this] at h
    cases h
  · exact absurd ((shut src).symm.trans h) nofun
  · exact absurd ((shut src).symm.trans h) nofun
  · unfold Ramp.inRange; decide +kernel
  · rcases feeds k f h with rfl | rfl <;> simp [Feed.inRange, steady, Feed.fresh]
  · unfold State.HistoriesOk; decide +kernel

theorem witness_ClockAndServiceStayInCourse :
    ({ inService .enteringStandby ⟨1 / 2, -(1 / 14400), false⟩ placed with pending := [.setClock 1] } : State).clock.inCourse ∧
    ({ inService .enteringStandby ⟨1 / 2, -(1 / 14400), false⟩ placed with pending := [.setClock 1] } : State).ServiceOk ∧
    ∃ t, step { inService .enteringStandby ⟨1 / 2, -(1 / 14400), false⟩ placed with pending := [.setClock 1] } = .next t := by
  refine ⟨?_, ⟨by decide, by decide +kernel, ?_⟩, _, rfl⟩
  · refine ⟨by decide +kernel, ?_, ?_, ?_, ?_, ?_, ?_⟩ <;> try decide
    exact ⟨rfl, fun _ => rfl, by decide⟩
  · show (-(1 / 14400) : Rat) < 0
    norm_num

end Sys2Proof.Tests
end

section
/-! ## The records that hold values, and what an answer leaves

`State.held` is what the part holds beside its notches, detectors, clock, link, service control, queue, counts and ports.
An operation on those alone is said once to leave it; every statement about the held records then follows. -/

namespace Sys2Proof.Machine

/-- The Building Store, the settings, and the records of placements, feeds, channels, mixers and Cue Lines. -/
structure Held where
  stations : Vector Station 32
  zones : Vector ZoneRecord 24
  areas : Vector AreaMode 8
  timing : Timing
  reportedTemperature : Int
  temperatureInUse : Int
  placements : Vector (Option Placement) 16
  feeds : Vector (Vector (Option Feed) 24) 16
  sources : Vector SourceRecord 16
  channels : Vector Channel 16
  mixers : Vector Mixer 24
  cues : Vector CueLine 8

/-- The held records of the part. -/
def State.held (s : State) : Held where
  stations := s.stations
  zones := s.zones
  areas := s.areas
  timing := s.timing
  reportedTemperature := s.reportedTemperature
  temperatureInUse := s.temperatureInUse
  placements := s.placements
  feeds := s.feeds
  sources := s.sources
  channels := s.channels
  mixers := s.mixers
  cues := s.cues

/-- Whatever next state an answer gives has a property. -/
def Leaves (P : State → Prop) (a : Answer) : Prop := ∀ t, a = .next t → P t

theorem leaves_next {P : State → Prop} {t : State} : Leaves P (.next t) ↔ P t :=
  ⟨fun h => h t rfl, fun h _ e => by cases e; exact h⟩

/-- A property of the held records that the owning rule's answer has is had by what the rise of chip select leaves. -/
theorem onRise_leaves {P : State → Prop} (hP : ∀ s t : State, t.held = s.held → P s → P t) {s : State}
    {act : State → Reply} (received : List Byte) (hs : P s) (hact : P (act s).2.2) :
    Leaves P (onRise received s act) := by
  unfold onRise
  dsimp only
  split
  · split
    · exact leaves_next.mpr (hP s _ rfl hs)
    · exact leaves_next.mpr (hP (act s).2.2 _ rfl hact)
  · exact leaves_next.mpr (hP s _ rfl hs)

theorem onRequest_leaves {P : State → Prop} (hP : ∀ s t : State, t.held = s.held → P s → P t) {s : State}
    {act : State → Reply} (i : Instr) (hs : P s) (hact : P (act s).2.2) : Leaves P (onRequest i s act) :=
  onRise_leaves hP _ hs hact

variable (s : State)

/-! ### Updates of the other records -/

@[simp] theorem State.held_raise (f : EventFlag) : (s.raise f).held = s.held := rfl
@[simp] theorem State.held_unqueue (k : FeedKey) : (s.unqueue k).held = s.held := rfl
@[simp] theorem State.held_setDetector (src : Source) (d : Detector) : (s.setDetector src d).held = s.held := rfl
@[simp] theorem State.held_setService (st : ServiceState) (r : Ramp) : (s.setService st r).held = s.held := rfl

@[simp] theorem State.held_offer (k : FeedKey) : (s.offer k).held = s.held := by
  rw [State.offer_eq]
  rfl

/-- A fold whose every step leaves the held records leaves them. -/
theorem foldl_held {α : Type} {op : State → α → State} (h : ∀ t x, (op t x).held = t.held) (l : List α) :
    (l.foldl op s).held = s.held :=
  List.foldlRecOn l op (motive := fun t => t.held = s.held) rfl fun t ht x _ => (h t x).trans ht

@[simp] theorem State.held_offerAll (keys : List FeedKey) : (s.offerAll keys).held = s.held :=
  foldl_held s State.held_offer _

@[simp] theorem State.held_afterCause : s.afterCause.held = s.held := by
  unfold State.afterCause
  split <;> rfl

/-! ### Detectors, notches and sections -/

@[simp] theorem State.held_placeNotch (src : Source) (n : Notch) : (s.placeNotch src n).held = s.held := by
  unfold State.placeNotch
  dsimp only
  split
  · rfl
  · split <;> rfl

@[simp] theorem State.held_handOver (src : Source) (b : Band) : (s.handOver src b).held = s.held := by
  unfold State.handOver State.handleCandidate
  split
  · rfl
  · split
    · rfl
    · rw [State.held_placeNotch]
      rfl

@[simp] theorem State.held_endWindowOf (src : Source) : (s.endWindowOf src).held = s.held := by
  unfold State.endWindowOf
  dsimp only
  split
  · split
    · split
      · rw [State.held_handOver]
        rfl
      · rfl
    · rfl
  · rfl

@[simp] theorem State.held_endWindow : s.endWindow.held = s.held := by
  unfold State.endWindow
  split
  · have key := foldl_held s State.held_endWindowOf allSources
    generalize allSources.foldl State.endWindowOf s = t at key ⊢
    exact key
  · rfl

@[simp] theorem State.held_ageStep (src : Source) (n : Notch) : (s.ageStep src n).held = s.held := by
  unfold State.ageStep
  split <;> rfl

@[simp] theorem State.held_ageNotch (src : Source) (n : Notch) : (s.ageNotch src n).held = s.held := by
  unfold State.ageNotch
  split
  · split
    · exact s.held_ageStep src n
    · rfl
  · rfl

@[simp] theorem State.held_ageTable (src : Source) : (s.ageTable src).held = s.held :=
  foldl_held s (fun t n => t.held_ageNotch src n) _

@[simp] theorem State.held_advanceAging : s.advanceAging.held = s.held := by
  unfold State.advanceAging
  split
  · have key := foldl_held s State.held_ageTable allSources
    generalize allSources.foldl State.ageTable s = t at key ⊢
    exact key
  · rfl

@[simp] theorem State.held_completeSection (src : Source) (i : SectionSlot) :
    (s.completeSection src i).held = s.held := by
  unfold State.completeSection
  dsimp only
  split
  · split <;> rfl
  · rfl

/-! ### Service control and the clock -/

@[simp] theorem State.held_beginStandby : s.beginStandby.held = s.held := by
  unfold State.beginStandby
  split <;> rfl

@[simp] theorem State.held_completeServiceRamp : s.completeServiceRamp.held = s.held := by
  unfold State.completeServiceRamp
  split <;> rfl

@[simp] theorem State.held_changeClock (target : ClockState) (gain : Rat) :
    (s.changeClock target gain).held = s.held := by
  unfold State.changeClock
  dsimp only
  split <;> rfl

@[simp] theorem State.held_switchChange : s.switchChange.held = s.held := by
  unfold State.switchChange
  split
  · split
    · rfl
    · exact s.held_changeClock _ _
  · rfl

@[simp] theorem State.held_switchComplete : s.switchComplete.held = s.held := by
  unfold State.switchComplete
  split <;> rfl

@[simp] theorem State.held_startLock : s.startLock.held = s.held := by
  unfold State.startLock
  split <;> rfl

@[simp] theorem State.held_lockChange : s.lockChange.held = s.held := by
  unfold State.lockChange
  split
  · exact s.held_changeClock _ _
  · rfl

@[simp] theorem State.held_loseClock : s.loseClock.held = s.held := by
  unfold State.loseClock
  split
  · split
    · exact s.held_changeClock _ _
    · rfl
  · rfl

@[simp] theorem State.held_arrival (interval : Rat) : (s.arrival interval).held = s.held := by
  unfold State.arrival
  dsimp only
  split
  · rfl
  · split <;> rfl
  · split
    · rfl
    · split
      · rfl
      · split
        · exact s.held_lockChange
        · split
          · exact State.held_startLock _
          · rfl

@[simp] theorem State.held_missFrame : s.missFrame.held = s.held := by
  unfold State.missFrame
  dsimp only
  split
  · rfl
  · split <;> rfl
  · split
    · exact State.held_loseClock _
    · rfl

/-! ### Commands that write no held record -/

/-- Whether a command may write a held record. -/
def writesHeld : Instr → Bool
  | .wake | .setStation _ _ _ | .clearStation _ | .setZone _ | .setArea _ _ _ | .setTemperature _ | .setTiming _
  | .place _ _ _ _ | .move _ _ | .setLevel _ _ | .retire _ | .setSource _ | .setGateMode _ _ | .getZoneMeters
  | .setCue _ | .getCueStatus | .powerOnReset _ | .clearing _ | .derivation | .glideComplete _ _
  | .fadeInComplete _ _ | .fadeOutComplete _ _ | .audioFrame _ | .blockEvaluation | .holdExpiry _
  | .openingComplete _ | .closingComplete _ | .trimRampComplete _ | .gainMovementComplete _ _
  | .muteRampComplete _ | .debouncedChange _ | .standbyEntryComplete | .cuePinSample _ => true
  | _ => false

variable {s}

theorem onRise_held {act : State → Reply} (received : List Byte) (hact : (act s).2.2.held = s.held) :
    Leaves (fun t => t.held = s.held) (onRise received s act) :=
  onRise_leaves (fun _ _ e h => e.trans h) received rfl hact

theorem onRequest_held {i : Instr} {act : State → Reply} (hact : (act s).2.2.held = s.held) :
    Leaves (fun t => t.held = s.held) (onRequest i s act) :=
  onRise_held _ hact

/-- The reads, the requests and events of notches, detectors, clock and service ramp, and those of the link leave the
held records. -/
theorem exec_held {i : Instr} (hw : writesHeld i = false) : Leaves (fun t => t.held = s.held) (exec i s) := by
  cases i with dsimp only [exec]
  | nop => exact onRequest_held rfl
  | identify => exact onRequest_held rfl
  | getCause => exact onRequest_held s.held_afterCause
  | ackEvents flags => exact onRequest_held rfl
  | setEventMask mask => exact onRequest_held rfl
  | standby => exact onRequest_held s.held_beginStandby
  | restart =>
    refine leaves_next.mpr ?_
    split <;> rfl
  | setClock selection =>
    refine onRequest_held ?_
    split <;> rfl
  | getClock => exact onRequest_held rfl
  | getStation station =>
    refine onRequest_held ?_
    split
    · split <;> rfl
    · rfl
  | getZone zone =>
    refine onRequest_held ?_
    split <;> rfl
  | getArea area =>
    refine onRequest_held ?_
    split <;> rfl
  | getAlignment => exact onRequest_held rfl
  | getTiming => exact onRequest_held rfl
  | getPlacement source =>
    refine onRequest_held ?_
    split
    · split <;> rfl
    · rfl
  | findAtStation station =>
    refine onRequest_held ?_
    split <;> rfl
  | getFeed source zone =>
    refine onRequest_held ?_
    split
    · split <;> rfl
    · rfl
  | listLimited => exact onRequest_held rfl
  | getPool => exact onRequest_held rfl
  | getSource source =>
    refine onRequest_held ?_
    split <;> rfl
  | getMeters => exact onRequest_held rfl
  | listNotches source =>
    refine onRequest_held ?_
    dsimp only
    split <;> rfl
  | addNotch source band depth =>
    refine onRequest_held ?_
    split
    · split
      · rfl
      · split
        · rfl
        · exact State.held_placeNotch _ _ _
    · rfl
  | editNotch source band depth kind =>
    refine onRequest_held ?_
    split
    · split <;> rfl
    · rfl
  | retireNotch source band =>
    refine onRequest_held ?_
    split
    · split <;> rfl
    · rfl
  | clearDynamic source =>
    refine onRequest_held ?_
    split <;> rfl
  | frameRejected received =>
    unfold execFrameRejected
    split
    · exact onRise_held received rfl
    · exact leaves_next.mpr rfl
  | resetPin =>
    refine leaves_next.mpr ?_
    dsimp only
    split <;> rfl
  | windowEnd => exact leaves_next.mpr s.held_endWindow
  | ringCandidate source band =>
    refine leaves_next.mpr ?_
    split
    · exact s.held_handOver source band
    · rfl
  | agingAdvance => exact leaves_next.mpr s.held_advanceAging
  | agingStep source band =>
    refine leaves_next.mpr ?_
    split
    · split
      · exact s.held_ageStep source _
      · rfl
    · rfl
  | sectionMovementComplete source slot => exact leaves_next.mpr (s.held_completeSection source slot)
  | frameSyncArrival interval => exact leaves_next.mpr (s.held_arrival interval)
  | missedFrame => exact leaves_next.mpr s.held_missFrame
  | presenceCountFull => exact leaves_next.mpr s.held_startLock
  | lockChange => exact leaves_next.mpr s.held_lockChange
  | clockLoss => exact leaves_next.mpr s.held_loseClock
  | switchChange => exact leaves_next.mpr s.held_switchChange
  | switchComplete => exact leaves_next.mpr s.held_switchComplete
  | serviceRampComplete => exact leaves_next.mpr s.held_completeServiceRamp
  | transactionStart =>
    refine leaves_next.mpr ?_
    split <;> rfl
  | _ => cases hw

end Sys2Proof.Machine
end

section
/-! ## Values stay in range

The ranges of the records (R7, R14, R15, R18, R20, R55, R70, R81, R86, R132, R145) and the form of the histories as one
condition on the held records, and each operation of the part in turn. -/

namespace Sys2Proof.Machine

/-! ### The condition -/

/-- The ramp in flight of a gate lies between 0 and 1, and an opening one rises (R86). -/
def Gate.inRange : Gate → Prop
  | .opening r _ => r.inRange ∧ 0 ≤ r.step
  | .closing r => r.inRange
  | _ => True

/-- The level of a stored PLACE lies in its range (R18, R132). -/
def CueAction.inRange : CueAction → Prop
  | .place _ _ _ level => -40 ≤ level ∧ level ≤ 24
  | _ => True

/-- A channel's gate ramp is in range and its history is canonical. -/
structure Channel.inRange (c : Channel) : Prop where
  gate : c.gate.inRange
  history : c.history.wf = true

/-- Every held record is in range. -/
structure Held.InRange (v : Held) : Prop where
  timing : v.timing.inRange
  reported : -100 ≤ v.reportedTemperature ∧ v.reportedTemperature ≤ 400
  inUse : -100 ≤ v.temperatureInUse ∧ v.temperatureInUse ≤ 400
  zones : ∀ z, (vget v.zones z).inRange
  sources : ∀ src, (vget v.sources src).inRange
  levels : ∀ src p, vget v.placements src = some p → -40 ≤ p.level ∧ p.level ≤ 24
  cues : ∀ l, (vget v.cues l).action.inRange
  channels : ∀ src, (vget v.channels src).inRange
  mutes : ∀ z, (vget v.mixers z).mute.inRange
  feeds : ∀ (k : FeedKey) f, vget (vget v.feeds k.1) k.2 = some f → f.inRange

/-- Every held record of the part is in range. -/
def State.InRange (s : State) : Prop := s.held.InRange

theorem State.InRange.of_held {s t : State} (h : s.InRange) (e : t.held = s.held) : t.InRange := by
  unfold State.InRange
  rw [e]
  exact h

theorem gate_inRange_iff {g : Gate} : g.inRange ↔
    (∀ r, g = .closing r → r.inRange) ∧ ∀ r turned, g = .opening r turned → r.inRange ∧ 0 ≤ r.step := by
  cases g <;> simp [Gate.inRange]

theorem cueAction_inRange_iff {a : CueAction} : a.inRange ↔
    ∀ src st sv level, a = .place src st sv level → -40 ≤ level ∧ level ≤ 24 := by
  cases a with
  | place src st sv level =>
    refine ⟨?_, fun h => h src st sv level rfl⟩
    rintro h _ _ _ _ ⟨⟩
    exact h
  | none | move | retire | gateMode | wake => exact ⟨fun _ => nofun, fun _ => trivial⟩

theorem State.inRange_iff (s : State) : s.InRange ↔ s.RangesOk ∧ s.HistoriesOk := by
  constructor
  · intro h
    refine ⟨⟨h.timing, h.reported, h.inUse, h.zones, h.sources, h.levels, fun l => ?_, fun src => ?_, fun src => ?_,
      h.mutes, h.feeds⟩, fun src => (h.channels src).history⟩
    · exact cueAction_inRange_iff.mp (h.cues l)
    · exact (gate_inRange_iff.mp (h.channels src).gate).1
    · exact (gate_inRange_iff.mp (h.channels src).gate).2
  · rintro ⟨⟨timing, reported, inUse, zones, sources, levels, cues, closing, opening, mutes, feeds⟩, histories⟩
    exact ⟨timing, reported, inUse, zones, sources, levels, fun l => cueAction_inRange_iff.mpr (cues l),
      fun src => ⟨gate_inRange_iff.mpr ⟨closing src, opening src⟩, histories src⟩, mutes, feeds⟩

/-! ### Tables and ramps -/

/-- What holds of every entry built holds of every entry of the table built. -/
theorem forall_vget_vgen {α : Type} {n : Nat} {P : α → Prop} {f : Fin n → α} (h : ∀ i, P (f i)) (i : Fin n) :
    P (vget (vgen f) i) := by
  rw [vget_vgen]
  exact h i

/-- What holds of every entry of a table and of an entry written holds of every entry after the write. -/
theorem forall_vget_vset {α : Type} {n : Nat} {P : α → Prop} {v : Vector α n} (h : ∀ i, P (vget v i)) (j : Fin n) {x : α}
    (hx : P x) (i : Fin n) : P (vget (vset v j x) i) := by
  rw [vget_vset]
  split
  · exact hx
  · exact h i

theorem stepOver_nonneg (ms : Nat) : 0 ≤ stepOver ms := by
  unfold stepOver
  positivity

theorem Ramp.inRange_start {value : Rat} (h : 0 ≤ value ∧ value ≤ 1) (step : Rat) : (Ramp.start value step).inRange := h

theorem Ramp.inRange.goal {r : Ramp} (h : r.inRange) : 0 ≤ r.goal ∧ r.goal ≤ 1 := by
  unfold Ramp.goal
  split
  · norm_num
  · split
    · norm_num
    · exact h

theorem Ramp.inRange.shown {r : Ramp} (h : r.inRange) : 0 ≤ r.shown ∧ r.shown ≤ 1 := by
  unfold Ramp.shown
  split
  · exact h.goal
  · exact h

theorem Ramp.inRange.finish {r : Ramp} (h : r.inRange) : r.finish.inRange := h.goal

theorem Ramp.step_advance (r : Ramp) : r.advance.step = r.step := by
  unfold Ramp.advance
  split
  · rfl
  · split <;> rfl

theorem Ramp.inRange.advance {r : Ramp} (h : r.inRange) : r.advance.inRange := by
  unfold Ramp.advance
  split
  · exact h
  · split
    · exact h
    · next hends =>
      obtain ⟨hlo, hhi⟩ := h
      simp only [Ramp.arrives, Bool.or_eq_true, Bool.and_eq_true, decide_eq_true_eq, not_or, not_and, not_le] at hends
      obtain ⟨hup, hdown⟩ := hends
      show 0 ≤ r.value + r.step ∧ r.value + r.step ≤ 1
      rcases lt_trichotomy r.step 0 with hs | hs | hs
      · have := hdown hs
        constructor <;> linarith
      · rw [hs]
        constructor <;> linarith
      · have := hup hs
        constructor <;> linarith

/-! ### Gates -/

section
variable {g : Gate} (r : SourceRecord)

theorem SourceRecord.opensFrom_inRange {gain : Rat} (h : 0 ≤ gain ∧ gain ≤ 1) : (r.opensFrom gain).inRange :=
  ⟨h, stepOver_nonneg r.attackTime⟩

theorem SourceRecord.closesFrom_inRange {gain : Rat} (h : 0 ≤ gain ∧ gain ≤ 1) : (r.closesFrom gain).inRange := h

theorem SourceRecord.forcedOpen_inRange (h : g.inRange) : (r.forcedOpen g).inRange := by
  cases g with
  | closed => exact r.opensFrom_inRange (by norm_num)
  | opening ramp turned => exact h
  | opened => trivial
  | hold timer => trivial
  | closing ramp => exact r.opensFrom_inRange h

theorem SourceRecord.forcedShut_inRange (h : g.inRange) : (r.forcedShut g).inRange := by
  cases g with
  | closed => trivial
  | opening ramp turned =>
    obtain ⟨⟨hlo, hhi⟩, hstep⟩ := h
    refine r.closesFrom_inRange ?_
    split
    · exact ⟨le_min (by norm_num) (by linarith), min_le_left _ _⟩
    · exact ⟨hlo, hhi⟩
  | opened => exact r.closesFrom_inRange (by norm_num)
  | hold timer => exact r.closesFrom_inRange (by norm_num)
  | closing ramp => exact h

theorem SourceRecord.evaluated_inRange (level : Int) (h : g.inRange) : (r.evaluated level g).inRange := by
  unfold SourceRecord.evaluated
  cases g with
  | closed =>
    dsimp only
    split
    · exact r.opensFrom_inRange (by norm_num)
    · trivial
  | opening ramp turned => exact h
  | opened =>
    dsimp only
    split
    · trivial
    · split
      · exact r.closesFrom_inRange (by norm_num)
      · trivial
  | hold timer =>
    dsimp only
    split
    · trivial
    · split
      · exact r.closesFrom_inRange (by norm_num)
      · trivial
  | closing ramp =>
    dsimp only
    split
    · exact ⟨h, stepOver_nonneg r.attackTime⟩
    · exact h

theorem Gate.inRange.advance (h : g.inRange) : g.advance.inRange := by
  cases g with
  | closed => trivial
  | opening ramp turned => exact ⟨h.1.advance, by rw [Ramp.step_advance]; exact h.2⟩
  | opened => trivial
  | hold timer => trivial
  | closing ramp => exact Ramp.inRange.advance h

end

/-! ### Feeds -/

theorem Feed.inRange_fresh : Feed.fresh.inRange := by
  simp [Feed.inRange, Feed.fresh]

theorem Glide.start_inRange {target : Nat} {timing : Timing} (h : target ≤ 30000) (ht : timing.inRange) :
    let g := Glide.start target timing.glideTime
    g.target ≤ 30000 ∧ 480 ≤ g.length ∧ g.length ≤ 24000 ∧ g.position ≤ g.length ∧
      ∀ tap, g.pending = some tap → tap ≤ 30000 ∧ tap ≠ g.target := by
  obtain ⟨⟨hlo, hhi⟩, -⟩ := ht
  simp only [Glide.start]
  exact ⟨h, by omega, by omega, by omega, nofun⟩

theorem derivedDelay_le (total : Int) : derivedDelay total ≤ 30000 := by
  unfold derivedDelay clampInt
  omega

theorem baseGainOf_inRange (baseLevel level : Int) : -192 ≤ baseGainOf baseLevel level ∧ baseGainOf baseLevel level ≤ 24 := by
  unfold baseGainOf clampInt
  omega

section
variable {f : Feed} (h : f.inRange)
include h

theorem Feed.inRange.level : 0 ≤ f.state.level ∧ f.state.level ≤ 1 := by
  obtain ⟨-, -, hfade, -⟩ := h
  cases hs : f.state with
  | waiting => norm_num [FeedState.level]
  | fadingIn r => exact hfade r (.inl hs)
  | steady => norm_num [FeedState.level]
  | fadingOut r => exact hfade r (.inr hs)

theorem Feed.inRange.smoothed (effective : Int) : (f.smoothed effective).inRange := by
  unfold Feed.smoothed
  split
  · exact h
  · exact h
  · split <;> exact h

/-- A feed past WAITING that takes a state of a fade, or STEADY, keeps its ranges. -/
theorem Feed.inRange.withState (hw : f.state ≠ .waiting) {st : FeedState} (hst : st ≠ .waiting)
    (hr : ∀ r, st = .fadingIn r ∨ st = .fadingOut r → r.inRange) : ({ f with state := st } : Feed).inRange := by
  obtain ⟨hlo, hhi, -, hact, -, htap, hglide⟩ := h
  exact ⟨hlo, hhi, hr, ⟨fun e => absurd e hst, fun e => absurd (hact.mpr e) hw⟩, fun e => absurd e hst, htap, hglide⟩

theorem Feed.inRange.withoutPending : f.withoutPending.inRange := by
  obtain ⟨hlo, hhi, hfade, hact, hnone, htap, hglide⟩ := h
  refine ⟨hlo, hhi, hfade, hact, fun hs => ?_, htap, fun g hg => ?_⟩
  · show f.glide.map _ = none
    rw [hnone hs]
    rfl
  · obtain ⟨g', hg', rfl⟩ := Option.map_eq_some_iff.mp hg
    obtain ⟨h1, h2, h3, h4, -⟩ := hglide g' hg'
    exact ⟨h1, h2, h3, h4, nofun⟩

theorem Feed.inRange.fadeOut (hw : f.state ≠ .waiting) (fadeTime : Nat) : (f.fadeOut fadeTime).inRange := by
  refine Feed.inRange.withState h.withoutPending hw nofun ?_
  rintro r (e | e) <;> cases e
  exact h.level

theorem Feed.inRange.fadeIn (hw : f.state ≠ .waiting) (fadeTime : Nat) : (f.fadeIn fadeTime).inRange := by
  refine h.withState hw nofun ?_
  rintro r (e | e) <;> cases e
  exact h.level

theorem Feed.inRange.glideEnded {timing : Timing} (ht : timing.inRange) : (f.glideEnded timing.glideTime).inRange := by
  unfold Feed.glideEnded
  split
  · next g hg =>
    obtain ⟨hlo, hhi, hfade, hact, hnone, htap, hglide⟩ := h
    obtain ⟨htarget, -, -, -, hpending⟩ := hglide g hg
    have hw : f.state ≠ .waiting := fun e => by simp [hnone e] at hg
    refine ⟨hlo, hhi, hfade, ⟨fun e => absurd e hw, nofun⟩, fun e => absurd e hw, fun tap e => ?_, fun g' e => ?_⟩
    · cases e
      exact htarget
    · obtain ⟨tap, hp, rfl⟩ := Option.map_eq_some_iff.mp e
      exact Glide.start_inRange (hpending tap hp).1 ht
  · exact h

theorem Feed.inRange.gainArrived : f.gainArrived.inRange := h

/-- A derived delay applied outside STANDBY keeps a feed in range (R65). -/
theorem Feed.inRange.applyDelay {delay : Nat} (hd : delay ≤ 30000) {timing : Timing} (ht : timing.inRange) :
    (f.applyDelay delay timing).inRange := by
  have hlevel := h.level
  have hall := h
  obtain ⟨hlo, hhi, hfade, hact, hnone, htap, hglide⟩ := h
  unfold Feed.applyDelay
  split
  · next hs =>
    refine ⟨hlo, hhi, ?_, ⟨nofun, nofun⟩, nofun, fun tap e => ?_, fun g hg => ?_⟩
    · rintro r (e | e) <;> cases e
      exact hlevel
    · cases e
      exact hd
    · exact absurd hg (by simp [Feed.fadeIn, hnone hs])
  · next hg hs =>
    split
    · exact hall
    · refine ⟨hlo, hhi, hfade, hact, fun e => absurd e hs, htap, fun g e => ?_⟩
      cases e
      exact Glide.start_inRange hd ht
  · next g hg hs =>
    obtain ⟨h1, h2, h3, h4, -⟩ := hglide g hg
    split
    · refine ⟨hlo, hhi, hfade, hact, fun e => absurd e hs, htap, fun g' e => ?_⟩
      cases e
      exact ⟨h1, h2, h3, h4, nofun⟩
    · next hne =>
      refine ⟨hlo, hhi, hfade, hact, fun e => absurd e hs, htap, fun g' e => ?_⟩
      cases e
      refine ⟨h1, h2, h3, h4, fun tap e => ?_⟩
      cases e
      exact ⟨hd, hne⟩

/-- A derived delay applied in STANDBY keeps a feed in range (R66). -/
theorem Feed.inRange.applyDelayStandby {delay : Nat} (hd : delay ≤ 30000) : (f.applyDelayStandby delay).inRange := by
  obtain ⟨hlo, hhi, hfade, -⟩ := h
  refine ⟨hlo, hhi, fun r hr => ?_, ⟨fun e => ?_, nofun⟩, fun _ => rfl, fun tap e => ?_, nofun⟩
  · cases hs : f.state with
    | waiting => simp [Feed.applyDelayStandby, hs] at hr
    | steady => simp [Feed.applyDelayStandby, hs] at hr
    | fadingIn r' => exact hfade r (by simpa [Feed.applyDelayStandby, hs] using hr)
    | fadingOut r' => exact hfade r (by simpa [Feed.applyDelayStandby, hs] using hr)
  · cases hs : f.state <;> simp [Feed.applyDelayStandby, hs] at e
  · cases e
    exact hd

/-- A feed at the completion of standby entry is in range (R163). -/
theorem Feed.inRange.atStandby : f.atStandby.inRange := by
  obtain ⟨hlo, hhi, hfade, hact, hnone, htap, hglide⟩ := h
  refine ⟨hlo, hhi, fun r hr => ?_, ?_, fun _ => rfl, fun tap e => ?_, nofun⟩
  · cases hs : f.state with
    | fadingIn r' => simp [Feed.atStandby, hs] at hr
    | fadingOut r' => exact hfade r (by simpa [Feed.atStandby, hs] using hr)
    | waiting => simp [Feed.atStandby, hs] at hr
    | steady => simp [Feed.atStandby, hs] at hr
  · cases hs : f.state with
    | waiting => simp [Feed.atStandby, hs, hnone hs, hact.mp hs]
    | fadingIn r | fadingOut r | steady =>
      have : f.active ≠ none := fun e => by simp [hact.mpr e] at hs
      cases hg : f.glide <;> simp [Feed.atStandby, hs, hg, this]
  · cases hg : f.glide with
    | none => exact htap tap (by simpa [Feed.atStandby, hg] using e)
    | some g =>
      obtain ⟨htarget, -, -, -, hpending⟩ := hglide g hg
      cases hp : g.pending with
      | none =>
        obtain rfl : g.target = tap := by simpa [Feed.atStandby, hg, hp] using e
        exact htarget
      | some p =>
        obtain rfl : p = tap := by simpa [Feed.atStandby, hg, hp] using e
        exact (hpending p hp).1

/-- One frame keeps a feed in range (R64, R70). -/
theorem Feed.inRange.advance : f.advance.inRange := by
  obtain ⟨hlo, hhi, hfade, hact, hnone, htap, hglide⟩ := h
  have hwait : f.advance.state = .waiting ↔ f.state = .waiting := by
    cases hs : f.state <;> simp [Feed.advance, hs]
  refine ⟨hlo, hhi, fun r hr => ?_, hwait.trans hact, fun e => ?_, htap, fun g hg => ?_⟩
  · cases hs : f.state with
    | waiting => simp [Feed.advance, hs] at hr
    | steady => simp [Feed.advance, hs] at hr
    | fadingIn r' =>
      obtain rfl : r'.advance = r := by simpa [Feed.advance, hs] using hr
      exact (hfade r' (.inl hs)).advance
    | fadingOut r' =>
      obtain rfl : r'.advance = r := by simpa [Feed.advance, hs] using hr
      exact (hfade r' (.inr hs)).advance
  · show f.glide.map _ = none
    rw [hnone (hwait.mp e)]
    rfl
  · obtain ⟨g', hg', rfl⟩ := Option.map_eq_some_iff.mp hg
    obtain ⟨h1, h2, h3, -, h5⟩ := hglide g' hg'
    exact ⟨h1, h2, h3, Nat.min_le_left _ _, h5⟩

end

/-! ### Updates of the held records -/

section
variable {s : State} (h : s.InRange)
include h

theorem State.InRange.setFeed (k : FeedKey) {f : Option Feed} (hf : ∀ g, f = some g → g.inRange) :
    (s.setFeed k f).InRange :=
  { h with
    feeds := fun j g hg => by
      change (s.setFeed k f).feed j = some g at hg
      rw [State.feed_setFeed] at hg
      split at hg
      · exact hf g hg
      · exact h.feeds j g hg }

theorem State.InRange.setSomeFeed (k : FeedKey) {f : Feed} (hf : f.inRange) : (s.setFeed k (some f)).InRange :=
  h.setFeed k fun _ e => by cases e; exact hf

theorem State.InRange.release (k : FeedKey) : (s.release k).InRange :=
  State.InRange.of_held (h.setFeed k (f := none) fun _ e => nomatch e) (State.held_unqueue _ k)

theorem State.InRange.setPlacement (src : Source) {p : Option Placement}
    (hp : ∀ q, p = some q → -40 ≤ q.level ∧ q.level ≤ 24) : (s.setPlacement src p).InRange :=
  { h with
    levels := fun j q hq => by
      change (s.setPlacement src p).placement j = some q at hq
      rw [State.placement_setPlacement] at hq
      split at hq
      · exact hp q hq
      · exact h.levels j q hq }

theorem State.InRange.setChannel (src : Source) {c : Channel} (hc : c.inRange) : (s.setChannel src c).InRange :=
  { h with
    channels := forall_vget_vset (P := Channel.inRange) h.channels src hc }

theorem State.InRange.setCue (l : Line) {c : CueLine} (hc : c.action.inRange) : (s.setCue l c).InRange :=
  { h with
    cues := forall_vget_vset (P := fun c : CueLine => c.action.inRange) h.cues l hc }

theorem State.InRange.setGate (src : Source) {g : Gate} (hg : g.inRange) : (s.setGate src g).InRange := by
  have hc : (s.setChannel src { vget s.channels src with gate := g }).InRange :=
    h.setChannel src ⟨hg, (h.channels src).history⟩
  unfold State.setGate
  dsimp only
  split
  · exact hc
  · exact hc.of_held (State.held_setDetector _ _ _)

theorem State.InRange.refreshGains : s.refreshGains.InRange :=
  { h with
    feeds := fun j g hg => by
      change s.refreshGains.feed j = some g at hg
      rw [State.feed_refreshGains] at hg
      obtain ⟨f, hf, rfl⟩ := Option.map_eq_some_iff.mp hg
      exact (h.feeds j f hf).smoothed _ }

theorem State.InRange.closeEvent (before : State) : (before.closeEvent s).InRange := by
  unfold State.closeEvent
  dsimp only
  split
  · exact h.refreshGains.of_held (State.held_raise _ _)
  · exact h.refreshGains

/-! ### Reconciliation -/

theorem State.InRange.drop (k : FeedKey) : (s.drop k).InRange := by
  unfold State.drop
  split
  · exact h
  · next f hf =>
    split
    · exact h.release k
    · exact h
    · next hw _ =>
      split
      · exact h.release k
      · exact State.InRange.of_held (h.setSomeFeed k ((h.feeds k f hf).fadeOut hw _)) (State.held_unqueue _ k)

theorem State.InRange.reconcileZone (src : Source) (p : Placement) (z : Zone) : (s.reconcileZone src p z).InRange := by
  unfold State.reconcileZone
  split
  · exact (h.setSomeFeed (src, z) Feed.inRange_fresh).of_held (State.held_offer _ _)
  · next f _ hf =>
    split
    · next hout =>
      have hw : f.state ≠ .waiting := fun e => by simp [e, FeedState.isFadingOut] at hout
      exact (h.setSomeFeed (src, z) ((h.feeds (src, z) f hf).fadeIn hw _)).of_held (State.held_offer _ _)
    · exact h.of_held (State.held_offer _ _)
  · exact h.drop _

theorem State.InRange.reconcile (src : Source) : (s.reconcile src).InRange := by
  unfold State.reconcile
  split
  · split
    · exact List.foldlRecOn _ _ (motive := State.InRange) h fun t ht z _ => ht.reconcileZone src _ z
    · exact h
  · exact h

theorem State.InRange.reconcileMany (chosen : Source → Bool) : (s.reconcileMany chosen).InRange :=
  List.foldlRecOn _ _ (motive := State.InRange) h fun _ ht src _ => ht.reconcile src

theorem State.InRange.afterPoolCheck {written : State} (hw : written.InRange) (chosen : Source → Bool)
    {finish : State → State} (hf : ∀ t : State, t.InRange → (finish t).InRange) :
    (afterPoolCheck s (s.poolChecked written chosen) finish).2.InRange := by
  rw [afterPoolCheck_eq]
  split
  · exact h
  · exact (hf _ (hw.reconcileMany chosen)).closeEvent s

theorem State.InRange.takeUpDrive (src : Source) : (s.takeUpDrive src).InRange := by
  have hg : (s.gate src).inRange := (h.channels src).gate
  refine h.setGate src ?_
  rw [State.drivenGate_eq]
  split
  · exact hg
  · split
    · unfold SourceRecord.driven
      split
      · exact hg
      · exact SourceRecord.forcedOpen_inRange _ hg
      · exact SourceRecord.forcedShut_inRange _ hg
    · exact SourceRecord.forcedShut_inRange _ hg

/-! ### Placements -/

theorem State.InRange.placeOp (src : Source) (st : StationId) (sv : Service) {level : Int}
    (hl : -40 ≤ level ∧ level ≤ 24) : (placeOp src st sv level s).2.InRange := by
  unfold Machine.placeOp
  dsimp only
  split
  · exact h
  · split
    · exact h
    · refine h.afterPoolCheck (h.setPlacement src ?_) _ fun t ht => ht.takeUpDrive src
      rintro _ ⟨⟩
      exact hl

theorem State.InRange.moveOp (src : Source) (st : StationId) : (moveOp src st s).2.InRange := by
  unfold Machine.moveOp
  dsimp only
  split
  · exact h
  · next p hp =>
    split
    · exact h
    · split
      · exact h
      · split
        · exact h
        · refine h.afterPoolCheck (h.setPlacement src ?_) _ fun t ht => ht
          rintro _ ⟨⟩
          exact h.levels src p hp

theorem State.InRange.removeIfEmpty (src : Source) : (s.removeIfEmpty src).InRange := by
  unfold State.removeIfEmpty
  split
  · split
    · exact h.setPlacement src nofun
    · exact h
  · exact h

theorem State.InRange.retireOp (src : Source) : (retireOp src s).2.InRange := by
  unfold Machine.retireOp
  dsimp only
  split
  · exact h
  · next p hp =>
    split
    · exact h
    · have hmarked : (s.setPlacement src (some { p with state := .retiring })).InRange := by
        refine h.setPlacement src ?_
        rintro _ ⟨⟩
        exact h.levels src p hp
      have hdropped := List.foldlRecOn allZones (fun (t : State) z => t.drop (src, z)) (motive := State.InRange)
        hmarked fun t ht z _ => ht.drop _
      exact ((hdropped.removeIfEmpty src).takeUpDrive src).closeEvent s

theorem State.InRange.setLevelOp (src : Source) {level : Int} (hl : -40 ≤ level ∧ level ≤ 24) :
    (setLevelOp src level s).2.InRange := by
  unfold Machine.setLevelOp
  dsimp only
  split
  · exact h
  · split
    · exact h
    · refine State.InRange.closeEvent (State.InRange.of_held (h.setPlacement src ?_) (State.held_offerAll _ _)) s
      rintro _ ⟨⟩
      exact hl

/-! ### Fades, glides and derivations -/

theorem State.InRange.completeGlide (k : FeedKey) : (s.completeGlide k).InRange := by
  unfold State.completeGlide
  split
  · next f hf =>
    split
    · exact (h.setSomeFeed k ((h.feeds k f hf).glideEnded h.timing)).closeEvent s
    · exact h
  · exact h

theorem State.InRange.completeFadeIn (k : FeedKey) : (s.completeFadeIn k).InRange := by
  unfold State.completeFadeIn
  split
  · next f hf =>
    split
    · next r hr =>
      split
      · refine (h.setSomeFeed k ((h.feeds k f hf).withState ?_ (st := .steady) nofun nofun)).closeEvent s
        exact fun e => by simp [hr] at e
      · exact h
    · exact h
  · exact h

theorem State.InRange.completeFadeOut (k : FeedKey) : (s.completeFadeOut k).InRange := by
  unfold State.completeFadeOut
  split
  · split
    · split
      · exact ((h.release k).removeIfEmpty k.1).closeEvent s
      · exact h
    · exact h
  · exact h

theorem State.InRange.completeGain (k : FeedKey) : (s.completeGain k).InRange := by
  unfold State.completeGain
  split
  · next f hf =>
    split
    · exact h.setSomeFeed k (h.feeds k f hf).gainArrived
    · exact h
  · exact h

theorem State.InRange.derivedFeed (k : FeedKey) {f : Feed} (hf : f.inRange) (p : Placement) :
    (s.derivedFeed k f p).inRange := by
  obtain ⟨-, -, hrest⟩ := hf
  have hlevel := baseGainOf_inRange (vget s.zones k.2).baseLevel p.level
  have hwritten (limited : Bool) :
      ({ f with baseGain := baseGainOf (vget s.zones k.2).baseLevel p.level, limited := limited } : Feed).inRange :=
    ⟨hlevel.1, hlevel.2, hrest⟩
  unfold State.derivedFeed
  dsimp only
  split
  · exact (hwritten _).applyDelayStandby (derivedDelay_le _)
  · exact (hwritten _).applyDelay (derivedDelay_le _) h.timing

theorem State.InRange.derive : s.derive.InRange := by
  unfold State.derive
  split
  · exact h
  · next k rest _ =>
    have hpop : ({ s with queue := rest } : State).InRange := h.of_held rfl
    dsimp only
    split
    · next f p hf _ =>
      refine State.InRange.closeEvent ?_ s
      split
      · exact hpop
      · have hset := hpop.setSomeFeed k (hpop.derivedFeed k (h.feeds k f hf) p)
        unfold State.deriveFeed
        dsimp only
        split
        · exact hset.of_held (State.held_raise _ _)
        · exact hset
    · exact hpop.closeEvent s

theorem State.InRange.reportTemperature {t : Int} (ht : -100 ≤ t ∧ t ≤ 400) : (reportTemperature t s).InRange := by
  unfold Machine.reportTemperature
  dsimp only
  split
  · have hadopted : ({ s with reportedTemperature := t, temperatureInUse := t } : State).InRange :=
      { h with reported := ht, inUse := ht }
    exact (hadopted.of_held (State.held_offerAll _ _)).closeEvent s
  · exact { h with reported := ht }

/-! ### The Building Store -/

theorem State.InRange.setStationOp (st : StationId) (position : Point) (reach : ZoneSet) :
    (setStationOp st position reach s).2.InRange := by
  have hwritten (r : Station) : (s.writeStation st r).InRange := { h with }
  unfold Machine.setStationOp
  dsimp only
  split
  · exact hwritten _
  · split
    · exact h.afterPoolCheck (hwritten _) _ fun t ht => ht
    · split
      · exact ((hwritten _).of_held (State.held_offerAll _ _)).closeEvent s
      · exact h

theorem State.InRange.writeZone (z : Zone) {r : ZoneRecord} (hr : r.inRange) : (s.writeZone z r).InRange :=
  { h with
    zones := forall_vget_vset (P := ZoneRecord.inRange) h.zones z hr
    mutes := fun j => by
      change (vget (if (vget s.zones z).mute = r.mute then s.mixers
        else vset s.mixers z ((vget s.mixers z).muteTo r.mute)) j).mute.inRange
      split
      · exact h.mutes j
      · exact forall_vget_vset (P := fun m : Mixer => m.mute.inRange) h.mutes z (Ramp.inRange_start (h.mutes z).shown _) j }

theorem State.InRange.setZoneOp (z : Zone) {r : ZoneRecord} (hr : r.inRange) : (setZoneOp z r s).2.InRange := by
  unfold Machine.setZoneOp
  dsimp only
  split
  · exact h.afterPoolCheck (h.writeZone z hr) _ fun t ht => ht
  · split
    · exact ((h.writeZone z hr).of_held (State.held_offerAll _ _)).closeEvent s
    · exact h.writeZone z hr

theorem State.InRange.setAreaOp (a : AreaId) (mode : AreaMode) : (setAreaOp a mode s).2.InRange := by
  unfold Machine.setAreaOp
  split
  · exact h
  · have hwritten : ({ s with areas := vset s.areas a mode } : State).InRange := { h with }
    exact h.afterPoolCheck hwritten _ fun t ht => ht

/-! ### Channels -/

theorem State.InRange.setSource (src : Source) {r : SourceRecord} (hr : r.inRange) :
    ({ s with sources := vset s.sources src r } : State).InRange :=
  { h with
    sources := forall_vget_vset (P := SourceRecord.inRange) h.sources src hr }

theorem State.InRange.setSourceOp (src : Source) {r : SourceRecord} (hr : r.inRange) :
    (setSourceOp src r s).InRange := by
  have hc : ((vget s.channels src).takeSettings (vget s.sources src) r).inRange := by
    obtain ⟨hgate, hhist⟩ := h.channels src
    refine ⟨?_, hhist⟩
    unfold Channel.takeSettings
    dsimp only
    split
    · split <;> trivial
    · exact hgate
  have hset := (h.setSource src hr).setChannel src hc
  unfold Machine.setSourceOp
  dsimp only
  split
  · exact hset
  · exact hset.of_held (State.held_setDetector _ _ _)

theorem State.InRange.setGateModeOp (src : Source) (m : GateMode) : (setGateModeOp src m s).2.InRange := by
  have hstored : (s.storeGateMode src m).InRange := h.setSource src (h.sources src)
  unfold Machine.setGateModeOp
  dsimp only
  split
  · exact h
  · split
    · exact (hstored.takeUpDrive src).closeEvent s
    · exact hstored

theorem State.InRange.evaluateChannel (src : Source) : (s.evaluateChannel src).InRange := by
  have hc := h.channels src
  unfold State.evaluateChannel
  dsimp only
  generalize hchannel : ({ vget s.channels src with level := _, blockEnergy := 0 } : Channel) = c
  have hin : c.inRange := hchannel ▸ ⟨hc.gate, hc.history⟩
  have ht := h.setChannel src hin
  split
  · refine ht.setGate src ?_
    rw [State.evaluatedGate_eq]
    exact SourceRecord.evaluated_inRange _ _ (ht.channels src).gate
  · exact ht

theorem State.InRange.evaluateBlock : s.evaluateBlock.InRange := by
  unfold State.evaluateBlock
  split
  · have hall := List.foldlRecOn allSources State.evaluateChannel (motive := State.InRange) h
      fun t ht src _ => ht.evaluateChannel src
    generalize allSources.foldl State.evaluateChannel s = t at hall ⊢
    have hnext : ({ t with blockCount := 0 } : State).InRange := hall.of_held rfl
    exact hnext.closeEvent s
  · exact h

theorem State.InRange.expireHold (src : Source) : (s.expireHold src).InRange := by
  unfold State.expireHold
  dsimp only
  split
  · refine State.InRange.closeEvent (State.InRange.setGate (h.setChannel src ?_) src ?_) s
    · exact ⟨(h.channels src).gate, (h.channels src).history⟩
    · rw [State.evaluatedGate_eq]
      exact SourceRecord.evaluated_inRange _ _ (h.channels src).gate
  · exact h

theorem State.InRange.completeOpening (src : Source) : (s.completeOpening src).InRange := by
  unfold State.completeOpening
  split
  · split
    · exact (h.setGate src (g := .opened) trivial).closeEvent s
    · exact h
  · exact h

theorem State.InRange.completeClosing (src : Source) : (s.completeClosing src).InRange := by
  unfold State.completeClosing
  split
  · split
    · exact (h.setGate src (g := .closed) trivial).closeEvent s
    · exact h
  · exact h

theorem State.InRange.completeTrim (src : Source) : (s.completeTrim src).InRange := by
  unfold State.completeTrim
  dsimp only
  split
  · exact h.setChannel src ⟨(h.channels src).gate, (h.channels src).history⟩
  · exact h

/-! ### Service control and the resets -/

theorem State.InRange.foldl_takeUpDrive (l : List Source) : (l.foldl State.takeUpDrive s).InRange :=
  List.foldlRecOn _ _ (motive := State.InRange) h fun _ ht src _ => ht.takeUpDrive src

theorem State.InRange.wake : s.wake.InRange := by
  have hset (st : ServiceState) (r : Ramp) : (s.setService st r).InRange := h.of_held (State.held_setService _ _ _)
  unfold State.wake
  dsimp only
  split
  · exact h
  · exact hset _ _
  · exact ((hset _ _).foldl_takeUpDrive _).closeEvent s

theorem State.InRange.feedsAtStandby (k : FeedKey) (f : Feed)
    (hf : vget (vget s.feedsAtStandby k.1) k.2 = some f) : f.inRange := by
  unfold State.feedsAtStandby at hf
  rw [vget_vgen, vget_vgen] at hf
  split at hf
  · next g hg =>
    split at hf
    · cases hf
    · cases hf
      exact (h.feeds k g hg).atStandby
  · cases hf

theorem State.InRange.endEntry : s.endEntry.InRange := by
  unfold State.endEntry
  split
  · have hentered : ({ s with
        service := { s.service with state := .standby, ramp := Ramp.rest 0 }
        feeds := s.feedsAtStandby
        channels := vgen fun src =>
          { vget s.channels src with gate := .closed, history := (vget s.channels src).history.clear }
        detectors := vgen fun _ => Detector.idle } : State).InRange :=
      { h with
        feeds := h.feedsAtStandby
        channels := forall_vget_vgen (P := Channel.inRange) fun src =>
          ⟨trivial, History.wf_clear (h.channels src).history⟩ }
    unfold State.completeEntry
    exact (List.foldlRecOn allSources State.removeIfEmpty (motive := State.InRange) hentered
      fun t ht src _ => ht.removeIfEmpty src).closeEvent s
  · exact h

omit h in
theorem Mixer.afresh_inRange (m : Mixer) (mute : Bool) : (m.afresh mute).mute.inRange := by
  unfold Mixer.afresh Ramp.rest Ramp.inRange
  cases mute <;> norm_num

/-- The clearing of a warm restart puts every record back into its range (R167). -/
theorem State.InRange.cleared (cause : RestartCause) (pins : Byte) : (s.cleared cause pins).InRange :=
  { h with
    levels := fun src p hp => by
      change vget (vgen fun src => keptPlacement (s.placement src)) src = some p at hp
      rw [vget_vgen] at hp
      exact h.levels src p (Option.filter_eq_some_iff.mp hp).1
    cues := forall_vget_vgen (P := fun c : CueLine => c.action.inRange) h.cues
    channels := forall_vget_vgen (P := Channel.inRange) fun src =>
      ⟨trivial, History.wf_clear (h.channels src).history⟩
    mutes := forall_vget_vgen (P := fun m : Mixer => m.mute.inRange) fun z => (vget s.mixers z).afresh_inRange _
    feeds := fun k f hf => by
      change vget (vget (vgen fun _ => vgen fun _ => none) k.1) k.2 = some f at hf
      simp at hf }

theorem State.InRange.clear (cause : RestartCause) (pins : Byte) : (s.clear cause pins).InRange :=
  ((State.InRange.reconcileMany (h.cleared cause pins) _).foldl_takeUpDrive _).refreshGains

/-! ### Cue Lines -/

theorem State.InRange.perform {a : CueAction} (ha : a.inRange) : (a.perform s).2.InRange := by
  cases a with
  | none => exact h
  | place src st sv level => exact h.placeOp src st sv ha
  | move src st => exact h.moveOp src st
  | retire src => exact h.retireOp src
  | gateMode src m => exact h.setGateModeOp src m
  | wake => exact h.wake

theorem State.InRange.recordAction (l : Line) (result : ResultCode) : (s.recordAction l result).InRange := by
  have hset : (s.setCue l { vget s.cues l with
      delta := true, lastResult := result, refused := (vget s.cues l).refused || result != .ok }).InRange :=
    h.setCue l (h.cues l)
  unfold State.recordAction
  dsimp only
  split
  · exact hset.of_held rfl
  · exact hset.of_held rfl

theorem State.InRange.debouncedChange (l : Line) : (s.debouncedChange l).InRange := by
  have hsettled : (s.settleLine l).InRange := h.setCue l (h.cues l)
  unfold State.debouncedChange
  dsimp only
  split
  · exact h
  · split
    · exact (hsettled.perform (h.cues l)).recordAction l _
    · exact hsettled

theorem State.InRange.foldl_debouncedChange (l : List Line) : (l.foldl State.debouncedChange s).InRange :=
  List.foldlRecOn _ _ (motive := State.InRange) h fun _ ht line _ => ht.debouncedChange line

theorem State.InRange.setTimingOp {new : Timing} (hn : new.inRange) : (setTimingOp new s).InRange := by
  unfold Machine.setTimingOp
  dsimp only
  split
  · exact h
  · generalize (if new.notchDecay < s.timing.notchDecay then _ else s.notches) = notches
    have hwritten : ({ s with timing := new, notches := notches } : State).InRange := { h with timing := hn }
    exact hwritten.foldl_debouncedChange _

/-! ### The frame -/

theorem State.InRange.completeMute (z : Zone) : (s.completeMute z).InRange := by
  unfold State.completeMute
  dsimp only
  split
  · exact { h with
      mutes := forall_vget_vset (P := fun m : Mixer => m.mute.inRange) h.mutes z (h.mutes z).finish }
  · exact h

theorem State.InRange.takeDueChannel (src : Source) : (s.takeDueChannel src).InRange :=
  State.InRange.of_held (((h.completeOpening src).completeClosing src).completeTrim src)
    (foldl_held _ (fun t i => t.held_completeSection src i) _)

theorem State.InRange.takeDueFeed (k : FeedKey) : (s.takeDueFeed k).InRange :=
  (((h.completeGlide k).completeGain k).completeFadeIn k).completeFadeOut k

theorem State.InRange.takeDue : s.takeDue.InRange := by
  have hswitch : s.switchChange.switchComplete.InRange := h.of_held (by rw [State.held_switchComplete, State.held_switchChange])
  have hramp := State.InRange.of_held hswitch.endEntry (State.held_completeServiceRamp _)
  have hchannels := List.foldlRecOn allSources State.takeDueChannel (motive := State.InRange) hramp
    fun t ht src _ => ht.takeDueChannel src
  have hfeeds := List.foldlRecOn allFeeds State.takeDueFeed (motive := State.InRange) hchannels
    fun t ht k _ => ht.takeDueFeed k
  have hmutes := List.foldlRecOn allZones State.completeMute (motive := State.InRange) hfeeds
    fun t ht z _ => ht.completeMute z
  have hwindow := hmutes.evaluateBlock.of_held (State.held_endWindow _)
  exact hwindow.of_held (State.held_advanceAging _)

theorem State.InRange.advanceFrame : s.advanceFrame.InRange :=
  { h with
    channels := forall_vget_vgen (P := Channel.inRange) fun src =>
      ⟨(h.channels src).gate.advance, (h.channels src).history⟩
    mutes := forall_vget_vgen (P := fun m : Mixer => m.mute.inRange) fun z => (h.mutes z).advance
    feeds := fun k f hf => by
      change vget (vget (vgen _) k.1) k.2 = some f at hf
      rw [vget_vgen, vget_vgen] at hf
      obtain ⟨g, hg, rfl⟩ := Option.map_eq_some_iff.mp hf
      exact (h.feeds k g hg).advance }

theorem State.InRange.runChannels (input : Vector Sample 16) : (s.runChannels input).InRange :=
  { h with
    channels := forall_vget_vgen (P := Channel.inRange) fun src =>
      ⟨(h.channels src).gate, History.wf_push _ (h.channels src).history⟩ }

theorem State.InRange.frame (input : Vector Sample 16) : (s.frame input).InRange := by
  have hrun := h.advanceFrame.runChannels input
  obtain ⟨portA, portB, e⟩ := s.frame_eq input
  rw [e]
  exact { hrun with
    mutes := forall_vget_vgen (P := fun m : Mixer => m.mute.inRange) hrun.mutes }

end

/-! ### The operands of requests -/

theorem clampInt_inRange {lo hi : Int} (h : lo ≤ hi) (x : Int) : lo ≤ clampInt lo hi x ∧ clampInt lo hi x ≤ hi := by
  unfold clampInt
  omega

theorem asZoneRecord_inRange {p : ZonePayload} {z : Zone} {r : ZoneRecord} (h : asZoneRecord p = some (z, r)) :
    r.inRange := by
  unfold asZoneRecord at h
  split at h
  · cases h
    refine ⟨clampInt_inRange (by norm_num) _, ?_, clampInt_inRange (by norm_num) _⟩
    simp only [clampNat]
    omega
  · cases h

theorem asTiming_inRange {p : TimingPayload} {t : Timing} (h : asTiming p = some t) : t.inRange := by
  unfold asTiming at h
  split at h
  · cases h
    simp only [Timing.inRange, clampNat]
    omega
  · cases h

theorem asSourceRecord_inRange (p : SourcePayload) (enable : Bool) (mode : GateMode) :
    (asSourceRecord p enable mode).inRange := by
  simp only [SourceRecord.inRange, asSourceRecord, clampInt, clampNat]
  omega

theorem asCueAction_inRange {p : CuePayload} {a : CueAction} (h : asCueAction p = some a) : a.inRange := by
  rw [cueAction_inRange_iff]
  rintro src st sv level rfl
  unfold asCueAction at h
  split at h
  · cases h
  · split at h
    · cases h
      exact clampInt_inRange (by norm_num) _
    · cases h
  · split at h <;> cases h
  · obtain ⟨_, _, e⟩ := Option.map_eq_some_iff.mp h
    cases e
  · split at h <;> cases h
  · cases h
  · cases h

/-! ### Every command -/

/-- Power-on reset puts every held record at a value in its range (R166). -/
theorem reset_inRange (pins : Byte) (serial : Nat) (waiting : List Instr) : ({ State.reset with
    cues := vgen fun l => CueLine.reset.afresh (pinOf pins l)
    freeSerial := serial
    pending := waiting } : State).InRange where
  timing := by simp [State.held, State.reset, Timing.inRange, Timing.reset]
  reported := by simp [State.held, State.reset]
  inUse := by simp [State.held, State.reset]
  zones := forall_vget_vgen fun _ => by simp [ZoneRecord.inRange, ZoneRecord.reset]
  sources := forall_vget_vgen fun _ => by simp [SourceRecord.inRange, SourceRecord.reset]
  levels := forall_vget_vgen (P := fun v => ∀ p : Placement, v = some p → -40 ≤ p.level ∧ p.level ≤ 24) fun _ => nofun
  cues := forall_vget_vgen (P := fun c : CueLine => c.action.inRange) fun _ => trivial
  channels := forall_vget_vgen fun _ => ⟨trivial, History.wf_reset⟩
  mutes := forall_vget_vgen (P := fun m : Mixer => m.mute.inRange) fun _ => by norm_num [Mixer.reset, Ramp.inRange]
  feeds := fun k f hf => by simp [State.held, State.reset] at hf

section
variable {s : State} (h : s.InRange)
include h

theorem State.InRange.onRequest_leaves {act : State → Reply} (i : Instr) (hact : (act s).2.2.InRange) :
    Leaves State.InRange (onRequest i s act) :=
  Machine.onRequest_leaves (fun _ _ e hs => hs.of_held e) i h hact

/-- Every command leaves the held records in range. -/
theorem State.InRange.exec_leaves (i : Instr) : Leaves State.InRange (exec i s) := by
  cases hw : writesHeld i with
  | false => exact fun t ht => h.of_held (exec_held hw t ht)
  | true =>
    cases i with dsimp only [exec]
    | wake => exact h.onRequest_leaves _ h.wake
    | setStation station position reach =>
      refine h.onRequest_leaves _ ?_
      split
      · exact h.setStationOp _ _ _
      · exact h
    | clearStation station =>
      refine h.onRequest_leaves _ ?_
      split
      · split
        · exact h
        · split
          · exact { h with }
          · exact h
      · exact h
    | setZone payload =>
      refine h.onRequest_leaves _ ?_
      split
      · next hr => exact h.setZoneOp _ (asZoneRecord_inRange hr)
      · exact h
    | setArea area mode service =>
      refine h.onRequest_leaves _ ?_
      split
      · split
        · exact h
        · exact h.setAreaOp _ _
      · exact h
    | setTemperature temperature =>
      exact h.onRequest_leaves _ (h.reportTemperature (clampInt_inRange (by norm_num) _))
    | setTiming payload =>
      refine h.onRequest_leaves _ ?_
      split
      · next hn => exact h.setTimingOp (asTiming_inRange hn)
      · exact h
    | place source station service level =>
      refine h.onRequest_leaves _ ?_
      split
      · exact h.placeOp _ _ _ (clampInt_inRange (by norm_num) _)
      · exact h
    | move source station =>
      refine h.onRequest_leaves _ ?_
      split
      · exact h.moveOp _ _
      · exact h
    | setLevel source level =>
      refine h.onRequest_leaves _ ?_
      split
      · exact h.setLevelOp _ (clampInt_inRange (by norm_num) _)
      · exact h
    | retire source =>
      refine h.onRequest_leaves _ ?_
      split
      · exact h.retireOp _
      · exact h
    | setSource payload =>
      refine h.onRequest_leaves _ ?_
      split
      · exact h.setSourceOp _ (asSourceRecord_inRange _ _ _)
      · exact h
    | setGateMode source mode =>
      refine h.onRequest_leaves _ ?_
      split
      · exact h.setGateModeOp _ _
      · exact h
    | getZoneMeters =>
      refine h.onRequest_leaves _ ?_
      exact { h with mutes := forall_vget_vgen (P := fun m : Mixer => m.mute.inRange) h.mutes }
    | setCue payload =>
      refine h.onRequest_leaves _ ?_
      dsimp only
      split
      · next ha => exact h.setCue _ (asCueAction_inRange ha)
      · exact h
    | getCueStatus =>
      refine h.onRequest_leaves _ ?_
      exact { h with cues := forall_vget_vgen (P := fun c : CueLine => c.action.inRange) h.cues }
    | powerOnReset cuePins => exact leaves_next.mpr (reset_inRange cuePins s.freeSerial s.pending)
    | clearing cuePins =>
      refine leaves_next.mpr ?_
      split
      · split
        · exact h.clear _ _
        · exact h
      · exact h
    | derivation => exact leaves_next.mpr h.derive
    | glideComplete source zone => exact leaves_next.mpr (h.completeGlide _)
    | fadeInComplete source zone => exact leaves_next.mpr (h.completeFadeIn _)
    | fadeOutComplete source zone => exact leaves_next.mpr (h.completeFadeOut _)
    | audioFrame input =>
      refine leaves_next.mpr ?_
      split
      · exact h.takeDue.frame input
      · exact h
    | blockEvaluation => exact leaves_next.mpr h.evaluateBlock
    | holdExpiry source => exact leaves_next.mpr (h.expireHold source)
    | openingComplete source => exact leaves_next.mpr (h.completeOpening source)
    | closingComplete source => exact leaves_next.mpr (h.completeClosing source)
    | trimRampComplete source => exact leaves_next.mpr (h.completeTrim source)
    | gainMovementComplete source zone => exact leaves_next.mpr (h.completeGain _)
    | muteRampComplete zone => exact leaves_next.mpr (h.completeMute zone)
    | debouncedChange line => exact leaves_next.mpr (h.debouncedChange line)
    | standbyEntryComplete => exact leaves_next.mpr h.endEntry
    | cuePinSample pins =>
      refine leaves_next.mpr ?_
      have hchanged := h.foldl_debouncedChange allLines
      exact { hchanged with
        cues := forall_vget_vgen (P := fun c : CueLine => c.action.inRange) fun l => by
          unfold CueLine.sample
          split <;> exact hchanged.cues l }
    | _ => cases hw

end

/-- One step takes the front command's answer, or the part as it is (log 1). -/
theorem step_leaves {P : State → Prop} {s t : State} (hidle : P s)
    (hexec : ∀ i rest, Leaves P (exec i { s with pending := rest })) (hstep : step s = .next t) : P t := by
  unfold step at hstep
  split at hstep
  · cases hstep
    exact hidle
  · exact hexec _ _ t hstep

/-- Settles O58: the ranges and the form of the histories are one condition on the held records, which every command keeps. -/
theorem valuesStayInRange : Obligations.ValuesStayInRange := by
  unfold Obligations.ValuesStayInRange
  intro s t hs hstep
  have h : s.InRange := s.inRange_iff.mpr hs
  refine t.inRange_iff.mp (step_leaves h (fun i rest => ?_) hstep)
  have hpopped : ({ s with pending := rest } : State).InRange := h.of_held rfl
  exact hpopped.exec_leaves i

end Sys2Proof.Machine
end

section
/-! ## The plain reads, the record reads and power-on reset -/

namespace Sys2Proof.Machine

/-- A request taken, with its rule's answer (R150). -/
theorem onRequest_answers {s : State} {i : Instr} {code : Byte} (hc : requestCode i = some code) {act : State → Reply}
    (h : s.takesRequest = true) {result : ResultCode} {payload : List Byte} {t : State}
    (ha : act s = (result, payload, t)) : onRequest i s act = .next (t.respond result code payload) := by
  rw [onRequest_taken hc act h, ha]

/-! ### Reads without operands -/

theorem State.usedCount_eq (s : State) : s.usedCount = allFeeds.countP fun k => (s.feed k).isSome := rfl

theorem State.countInState_eq (s : State) (code : Nat) :
    s.countInState code = allFeeds.countP fun k => (s.feed k).any fun f => f.state.code == code := by
  unfold State.countInState
  congr 1
  funext k
  cases s.feed k <;> rfl

/-- The payload of GET_POOL: the used and free records and those in each state (R41). -/
theorem State.poolBytes_eq (s : State) : s.poolBytes =
    [byteOf s.usedCount, byteOf (128 - s.usedCount), byteOf (s.countInState 0), byteOf (s.countInState 1),
      byteOf (s.countInState 2), byteOf (s.countInState 3)] := rfl

/-- Settles O10: each read is taken with its own code, answers OK and leaves the part (R17, R41, R62, R97, R143, R153). -/
theorem plainReads : Obligations.PlainReads := by
  unfold Obligations.PlainReads
  intro s h
  dsimp only [exec]
  refine ⟨onRequest_answers rfl h rfl, onRequest_answers rfl h rfl, onRequest_answers rfl h rfl,
    onRequest_answers rfl h rfl, onRequest_answers rfl h rfl, onRequest_answers rfl h ?_, onRequest_answers rfl h rfl⟩
  simp only [readOut, State.poolBytes_eq, State.usedCount_eq, State.countInState_eq]

/-! ### Reads of a record -/

section
variable {s : State} {b : Byte} (h : s.takesRequest = true)
include h

theorem exec_getStation_outOfRange (hb : 32 ≤ b.toNat) :
    exec (.getStation b) s = .next (s.respond .outOfRange 0x11 []) := by
  show execGetStation b s = _
  exact onRequest_answers rfl h (by simp only [asId_of_le hb, refuse])

theorem exec_getStation {st : StationId} (hb : b.toNat = st.val) : exec (.getStation b) s =
    .next (if (vget s.stations st).present then s.respond .ok 0x11 (stationBytes (vget s.stations st))
      else s.respond .absent 0x11 []) := by
  show execGetStation b s = _
  cases hp : (vget s.stations st).present
  · exact onRequest_answers rfl h (by simp [asId_of_eq st hb, hp, refuse])
  · exact onRequest_answers rfl h (by simp [asId_of_eq st hb, hp, readOut])

theorem exec_getZone_outOfRange (hb : 24 ≤ b.toNat) : exec (.getZone b) s = .next (s.respond .outOfRange 0x14 []) := by
  show execGetZone b s = _
  exact onRequest_answers rfl h (by simp only [asId_of_le hb, refuse])

theorem exec_getZone {z : Zone} (hb : b.toNat = z.val) :
    exec (.getZone b) s = .next (s.respond .ok 0x14 (zoneBytes (vget s.zones z))) := by
  show execGetZone b s = _
  exact onRequest_answers rfl h (by simp only [asId_of_eq z hb, readOut])

theorem exec_getArea_outOfRange (hb : 8 ≤ b.toNat) : exec (.getArea b) s = .next (s.respond .outOfRange 0x16 []) := by
  show execGetArea b s = _
  exact onRequest_answers rfl h (by simp only [asId_of_le hb, refuse])

theorem exec_getArea {a : AreaId} (hb : b.toNat = a.val) : exec (.getArea b) s = .next (s.respond .ok 0x16
    (areaBytes (vget s.areas a) (zoneSetOf fun z => (vget s.zones z).area == a))) := by
  show execGetArea b s = _
  exact onRequest_answers rfl h (by simp only [asId_of_eq a hb, readOut])

theorem exec_getSource_outOfRange (hb : 16 ≤ b.toNat) : exec (.getSource b) s = .next (s.respond .outOfRange 0x31 []) := by
  show execGetSource b s = _
  exact onRequest_answers rfl h (by simp only [asId_of_le hb, refuse])

theorem exec_getSource {src : Source} (hb : b.toNat = src.val) :
    exec (.getSource b) s = .next (s.respond .ok 0x31 (sourceBytes (vget s.sources src))) := by
  show execGetSource b s = _
  exact onRequest_answers rfl h (by simp only [asId_of_eq src hb, readOut])

theorem exec_listNotches_outOfRange (hb : 16 ≤ b.toNat) :
    exec (.listNotches b) s = .next (s.respond .outOfRange 0x38 []) := by
  show execListNotches b s = _
  exact onRequest_answers rfl h (by simp only [asId_of_le hb, refuse])

theorem exec_listNotches {src : Source} (hb : b.toNat = src.val) : exec (.listNotches b) s = .next (s.respond .ok 0x38
    ([byteOf (vget s.notches src).length, yesNoByte (s.saturated src)] ++ (vget s.notches src).flatMap notchBytes)) := by
  show execListNotches b s = _
  exact onRequest_answers rfl h (by simp only [asId_of_eq src hb, readOut])

end

/-- The payload of GET_ZONE, field by field (spec 12, Zone record). -/
theorem zoneBytes_eq (r : ZoneRecord) : zoneBytes r =
    intBytes r.speaker.x ++ intBytes r.speaker.y ++ intBytes r.speaker.z ++ intBytes r.listener.x ++
      intBytes r.listener.y ++ intBytes r.listener.z ++ [byteOf r.area.val] ++ intBytes r.baseLevel ++
      [byteOf r.precedenceOffset] ++ intBytes r.latencyTrim ++ [yesNoByte r.mute] := by
  simp only [zoneBytes, pointFieldBytes, List.append_assoc]

/-- Settles O11: an identifier out of range is refused, an absent station is ABSENT, and every other read gives the
record's bytes (R5, R12, R83, R113, R126). -/
theorem recordReads : Obligations.RecordReads := by
  unfold Obligations.RecordReads
  refine ⟨fun s b h => ⟨exec_getStation_outOfRange h, fun st hb => ⟨fun hp => ?_, fun hp => ?_⟩,
    exec_getZone_outOfRange h, fun z hb => ?_, exec_getArea_outOfRange h, fun a hb => ?_⟩,
    fun s b h => ⟨fun hb => ⟨exec_getSource_outOfRange h hb, exec_listNotches_outOfRange h hb⟩,
      fun src hb => ⟨?_, exec_listNotches h hb⟩⟩⟩
  · rw [exec_getStation h hb, hp]
    rfl
  · rw [exec_getStation h hb, hp]
    rfl
  · rw [exec_getZone h hb, zoneBytes_eq]
  · rw [exec_getArea h hb]
    rfl
  · rw [exec_getSource h hb]
    dsimp only
    unfold sourceBytes
    cases (vget s.sources src).gateMode <;> rfl

/-! ### Power-on reset -/

/-- The part after a power-on reset, whose pins give the Cue Lines' levels (R135, R166). -/
def State.poweredOn (s : State) (pins : Byte) : State :=
  { State.reset with
    cues := vgen fun l => CueLine.reset.afresh (pinOf pins l)
    freeSerial := s.freeSerial
    pending := s.pending }

theorem exec_powerOnReset (s : State) (pins : Byte) : exec (.powerOnReset pins) s = .next (s.poweredOn pins) := rfl

theorem State.settled_poweredOn (s : State) (pins : Byte) : (s.poweredOn pins).settled = true := by
  rw [State.settled_iff]
  refine ⟨rfl, fun k f hf => ?_⟩
  simp [State.feed, State.poweredOn, State.reset] at hf

/-- Settles O49: each record reads as its power-on column (R166). -/
theorem powerOnResets : Obligations.PowerOnResets := by
  unfold Obligations.PowerOnResets
  intro s pins
  refine ⟨s.poweredOn pins, exec_powerOnReset s pins, rfl, vget_vgen _, vget_vgen _, vget_vgen _, rfl, rfl, rfl,
    vget_vgen _, fun k => ?_, rfl, vget_vgen _, fun src => ?_, rfl, rfl, rfl, rfl, fun src => ?_, fun z => ?_,
    vget_vgen _, rfl, rfl, rfl, rfl, rfl, rfl, rfl, rfl, rfl, rfl, s.settled_poweredOn pins⟩
  · simp [State.feed, State.poweredOn, State.reset]
  · have hc : vget (s.poweredOn pins).channels src = Channel.reset := vget_vgen _ src
    rw [hc]
    exact ⟨rfl, rfl, rfl, fun tap => History.tap_clear ⟨[], 0⟩ tap⟩
  · exact ⟨vget_vgen _ src, vget_vgen _ src, fun i => by simp [State.poweredOn, State.reset]⟩
  · have hm : vget (s.poweredOn pins).mixers z = Mixer.reset := vget_vgen _ z
    rw [hm]
    exact ⟨rfl, rfl, rfl⟩

end Sys2Proof.Machine
end

section
/-! ## Station and zone edits -/

namespace Sys2Proof.Machine

/-! ### Choices that agree on ACTIVE placements -/

section
variable {s : State} {a b : Source → Bool} (h : ∀ src, s.isPlaced src = true → a src = b src)
include h

theorem State.activeAmong_congr : s.activeAmong a = s.activeAmong b := by
  unfold State.activeAmong
  refine List.filter_congr fun src _ => ?_
  cases hp : s.isPlaced src
  · simp
  · rw [h src hp]

theorem State.newRecords_congr : s.newRecords a = s.newRecords b := by
  unfold State.newRecords
  refine List.countP_congr fun k _ => ?_
  cases hw : s.wants k
  · simp
  · rw [h k.1 (s.placed_of_wants hw)]

theorem reconciled_congr {before t : State} : Reconciled before s a t ↔ Reconciled before s b t := by
  unfold Reconciled State.reconciledQueue
  rw [State.activeAmong_congr h]

end

/-- A placement stands at a station exactly when it is ACTIVE and names the station (R39). -/
theorem State.standsAt_iff (s : State) (st : StationId) (src : Source) :
    s.standsAt st src = true ↔ ∃ p, s.placement src = some p ∧ p.state = .active ∧ p.station = st := by
  unfold State.standsAt
  cases s.placement src <;> simp

/-- Whether a placement in any state names a station. -/
def State.namesStation (s : State) (st : StationId) (src : Source) : Bool :=
  (s.placement src).any fun p => p.station == st

theorem State.standsAt_eq (s : State) (st : StationId) (src : Source) :
    s.standsAt st src = (s.namesStation st src && s.isPlaced src) := by
  unfold State.standsAt State.namesStation State.isPlaced
  cases s.placement src with
  | none => rfl
  | some p => simp [Bool.and_comm]

theorem State.standsAt_of_isPlaced {s : State} {st : StationId} {src : Source} (h : s.isPlaced src = true) :
    s.standsAt st src = s.namesStation st src := by
  rw [State.standsAt_eq, h, Bool.and_true]

/-! ### Offers -/

/-- Offers of the feeds at a station: those of the ACTIVE placements there, ascending by source and zone (R3). -/
theorem State.offers_standsAt (s : State) (st : StationId) : (feedsOf (s.standsAt st)).filter s.isOfferable =
    (s.activeAmong (s.namesStation st)).flatMap fun src => zonesOf src fun z => s.isOfferable (src, z) := by
  rw [feedsOf_eq, List.filter_flatMap]
  have hchosen : allSources.filter (s.standsAt st) = s.activeAmong (s.namesStation st) :=
    List.filter_congr fun src _ => s.standsAt_eq st src
  rw [hchosen]
  congr 1
  funext src
  rw [List.filter_map]
  rfl

theorem nodup_zoneKeys (z : Zone) : (allSources.map fun src => ((src, z) : FeedKey)).Nodup :=
  nodup_allSources.map fun _ _ e => (Prod.mk.inj e).1

/-! ### SET_STATION and CLEAR_STATION -/

section
variable {s : State} {b : Byte} (h : s.takesRequest = true)
include h

theorem exec_setStation_outOfRange (position : RawPoint) (reach : ZoneSet) (hb : 32 ≤ b.toNat) :
    exec (.setStation b position reach) s = .next (s.respond .outOfRange 0x10 []) := by
  show execSetStation b position reach s = _
  exact onRequest_answers rfl h (by simp only [asId_of_le hb, refuse])

/-- SET_STATION of a station answers what its operation does (R2). -/
theorem exec_setStation {st : StationId} (hb : b.toNat = st.val) {position : RawPoint} {reach : ZoneSet}
    {code : ResultCode} {t : State} (ho : setStationOp st (asPoint position) reach s = (code, t)) :
    exec (.setStation b position reach) s = .next (t.respond code 0x10 []) := by
  show execSetStation b position reach s = _
  exact onRequest_answers rfl h (by simp only [asId_of_eq st hb, ho, bare])

theorem exec_clearStation_outOfRange (hb : 32 ≤ b.toNat) :
    exec (.clearStation b) s = .next (s.respond .outOfRange 0x12 []) := by
  show execClearStation b s = _
  exact onRequest_answers rfl h (by simp only [asId_of_le hb, refuse])

/-- CLEAR_STATION is refused while an ACTIVE placement names the station (R6). -/
theorem exec_clearStation_inUse {st : StationId} (hb : b.toNat = st.val) {src : Source}
    (hsrc : s.standsAt st src = true) : exec (.clearStation b) s = .next (s.respond .inUse 0x12 []) := by
  have hany : allSources.any (s.standsAt st) = true := List.any_eq_true.mpr ⟨src, mem_allSources src, hsrc⟩
  show execClearStation b s = _
  exact onRequest_answers rfl h (by simp [asId_of_eq st hb, hany, refuse])

/-- CLEAR_STATION of a station that no ACTIVE placement names leaves it absent (R6). -/
theorem exec_clearStation_free {st : StationId} (hb : b.toNat = st.val) (hfree : ∀ src, s.standsAt st src = false) :
    exec (.clearStation b) s = .next ((if (vget s.stations st).present then s.writeStation st Station.reset
      else s).respond .ok 0x12 []) := by
  have hany : allSources.any (s.standsAt st) = false := List.any_eq_false.mpr fun src _ => by simp [hfree src]
  show execClearStation b s = _
  refine onRequest_answers rfl h ?_
  cases hp : (vget s.stations st).present <;> simp [asId_of_eq st hb, hany, hp, accept]

end

section
variable {s : State} {st : StationId} {position : Point} {reach : ZoneSet}

/-- An absent station is written (R2). -/
theorem setStationOp_absent (hp : (vget s.stations st).present = false) :
    setStationOp st position reach s = (.ok, s.writeStation st ⟨true, position, reach⟩) := by
  simp [setStationOp, hp]

/-- A repeated station changes nothing (R2). -/
theorem setStationOp_repeated (hp : (vget s.stations st).present = true) (hr : (vget s.stations st).reach = reach)
    (hpos : (vget s.stations st).position = position) : setStationOp st position reach s = (.ok, s) := by
  simp [setStationOp, hp, hr, hpos]

/-- A position change offers the feeds there (R3). -/
theorem setStationOp_moved (hp : (vget s.stations st).present = true) (hr : (vget s.stations st).reach = reach)
    (hpos : (vget s.stations st).position ≠ position) : setStationOp st position reach s =
      (.ok, s.closeEvent ((s.writeStation st ⟨true, position, reach⟩).offerAll (feedsOf (s.standsAt st)))) := by
  simp [setStationOp, hp, hr, hpos]

/-- A reach change is pool-checked and reconciles the placements there (R4). -/
theorem setStationOp_reach (hp : (vget s.stations st).present = true) (hr : (vget s.stations st).reach ≠ reach) :
    setStationOp st position reach s =
      let written := s.writeStation st ⟨true, position, reach⟩
      if s.freeCount < written.newRecords (s.namesStation st) then (.poolFull, s)
      else (.ok, s.closeEvent (written.reconcileMany (s.standsAt st))) := by
  have hcount : (s.writeStation st ⟨true, position, reach⟩).newRecords (s.standsAt st) =
      (s.writeStation st ⟨true, position, reach⟩).newRecords (s.namesStation st) :=
    State.newRecords_congr fun src hs => State.standsAt_of_isPlaced hs
  simp only [setStationOp, hp, hr, Bool.not_true, Bool.false_eq_true, if_false, ne_eq, not_false_eq_true, if_true,
    afterPoolCheck_eq, hcount, id_eq]

end

/-- Settles O17: each clause is one branch of the operation (R2, R3, R4, R6). -/
theorem stationEdits : Obligations.StationEdits := by
  unfold Obligations.StationEdits
  refine ⟨fun b position reach s h => ⟨exec_setStation_outOfRange h position reach, fun st hb => ?_⟩,
    fun b s h => ⟨exec_clearStation_outOfRange h, fun st hb => ⟨?_, fun hfree => ?_⟩⟩⟩
  · refine ⟨fun hp => exec_setStation h hb (setStationOp_absent hp),
      fun hp hr hpos => exec_setStation h hb (setStationOp_repeated hp hr hpos), fun hp hr hpos => ?_,
      fun hp hr hfull => ?_, fun hp hr hfits hok => ?_⟩
    · refine ⟨_, exec_setStation h hb (setStationOp_moved hp hr hpos), Offered.respond ?_ _ _ _⟩
      have hoffers := s.offers_standsAt st
      have hclose := State.closeEvent_offerAll (s.writeStation st ⟨true, asPoint position, reach⟩) s _
        (nodup_feedsOf (s.standsAt st))
      exact hoffers ▸ hclose
    · exact exec_setStation h hb ((setStationOp_reach hp hr).trans (if_pos hfull))
    · refine ⟨_, exec_setStation h hb ((setStationOp_reach hp hr).trans (if_neg (Nat.not_lt.mpr hfits))),
        Reconciled.respond ?_ _ _ _⟩
      obtain ⟨-, hused, -⟩ := hok
      have hnames : ∀ src, (s.writeStation st ⟨true, asPoint position, reach⟩).isPlaced src = true →
          s.standsAt st src = s.namesStation st src := fun src hs => State.standsAt_of_isPlaced hs
      exact (reconciled_congr hnames).mp (State.closeEvent_reconcileMany _ s _ hused)
  · rintro ⟨src, hsrc⟩
    exact exec_clearStation_inUse h hb ((s.standsAt_iff st src).mpr hsrc)
  · have hnone : ∀ src, s.standsAt st src = false := fun src => by
      rw [Bool.eq_false_iff, ne_eq, State.standsAt_iff]
      rintro ⟨p, hp, ha, hst⟩
      exact hfree src p hp ha hst
    rw [exec_clearStation_free h hb hnone]
    exact ⟨fun hp => by simp [hp], fun hp => by rw [hp]; rfl⟩

/-! ### SET_ZONE -/

theorem asZoneRecord_eq {p : ZonePayload} {z : Zone} {a : AreaId} {mute : Bool} (hz : p.zone.toNat = z.val)
    (ha : p.area.toNat = a.val) (hm : p.mute.toNat = if mute then 1 else 0) : asZoneRecord p = some (z, {
      speaker := asPoint p.speaker
      listener := asPoint p.listener
      area := a
      baseLevel := clampInt (-192) 24 p.baseLevel.toInt
      precedenceOffset := min 80 p.precedenceOffset.toNat
      latencyTrim := clampInt (-480) 480 p.latencyTrim.toInt
      mute := mute }) := by
  simp [asZoneRecord, asId_of_eq z hz, asId_of_eq a ha, asYesNo_of_eq mute hm, clampNat]

theorem asZoneRecord_none {p : ZonePayload} (h : 24 ≤ p.zone.toNat ∨ 8 ≤ p.area.toNat ∨ 2 ≤ p.mute.toNat) :
    asZoneRecord p = none := by
  unfold asZoneRecord
  rcases h with h | h | h
  · simp [asId_of_le h]
  · simp [asId_of_le h]
  · simp [asYesNo_of_le h]

/-- A SET_ZONE makes no value change exactly where the records agree but for area and mute (R8). -/
theorem valueChanges_eq_false_iff {old new : ZoneRecord} (ha : old.area = new.area) :
    valueChanges old new = false ↔ { old with mute := new.mute } = new := by
  obtain ⟨sp, li, ar, bl, po, lt, mu⟩ := old
  obtain ⟨sp', li', ar', bl', po', lt', mu'⟩ := new
  obtain rfl : ar = ar' := ha
  simp [valueChanges, and_assoc]

section
variable {s : State} {z : Zone} {r : ZoneRecord}

/-- A mute change alone is written (R8, R11). -/
theorem setZoneOp_written (ha : (vget s.zones z).area = r.area)
    (hv : valueChanges (vget s.zones z) r = false) : setZoneOp z r s = (.ok, s.writeZone z r) := by
  simp [setZoneOp, ha, hv]

/-- A value change offers the zone's feeds (R9). -/
theorem setZoneOp_values (ha : (vget s.zones z).area = r.area)
    (hv : valueChanges (vget s.zones z) r = true) : setZoneOp z r s =
      (.ok, s.closeEvent ((s.writeZone z r).offerAll (allSources.map fun src => (src, z)))) := by
  simp [setZoneOp, ha, hv]

/-- An area change is pool-checked and reconciles every ACTIVE placement (R10). -/
theorem setZoneOp_area (ha : (vget s.zones z).area ≠ r.area) : setZoneOp z r s =
    if s.freeCount < (s.writeZone z r).newRecords (fun _ => true) then (.poolFull, s)
    else (.ok, s.closeEvent ((s.writeZone z r).reconcileMany fun _ => true)) := by
  simp only [setZoneOp, ha, ne_eq, not_false_eq_true, if_true, afterPoolCheck_eq, id_eq]

end

/-- SET_ZONE of a zone answers what its operation does (R8). -/
theorem exec_setZone {s : State} (h : s.takesRequest = true) {p : ZonePayload} {z : Zone} {r : ZoneRecord}
    (hp : asZoneRecord p = some (z, r)) {code : ResultCode} {t : State} (ho : setZoneOp z r s = (code, t)) :
    exec (.setZone p) s = .next (t.respond code 0x13 []) := by
  show execSetZone p s = _
  exact onRequest_answers rfl h (by simp only [hp, ho, bare])

theorem exec_setZone_outOfRange {s : State} (h : s.takesRequest = true) {p : ZonePayload} (hp : asZoneRecord p = none) :
    exec (.setZone p) s = .next (s.respond .outOfRange 0x13 []) := by
  show execSetZone p s = _
  exact onRequest_answers rfl h (by simp only [hp, refuse])

/-- Settles O18: each clause is one branch of the operation on the clamped record (R7 to R11). -/
theorem setZoneEffects : Obligations.SetZoneEffects := by
  unfold Obligations.SetZoneEffects
  intro p s h
  refine ⟨fun hp => exec_setZone_outOfRange h (asZoneRecord_none hp), fun z a mute hz ha hm => ?_⟩
  have hread := asZoneRecord_eq hz ha hm
  intro new old ramp written
  refine ⟨fun harea hsame => ?_, fun harea hdiff => ?_, fun harea hfull => ?_, fun harea hfits hok => ?_⟩
  · exact exec_setZone h hread (setZoneOp_written harea ((valueChanges_eq_false_iff harea).mpr hsame))
  · have hv : valueChanges old new = true :=
      (Bool.not_eq_false _).mp fun e => hdiff ((valueChanges_eq_false_iff harea).mp e)
    refine ⟨_, exec_setZone h hread (setZoneOp_values harea hv), Offered.respond ?_ _ _ _⟩
    have hclose := State.closeEvent_offerAll (s.writeZone z new) s _ (nodup_zoneKeys z)
    rw [List.filter_map] at hclose
    exact hclose
  · exact exec_setZone h hread ((setZoneOp_area harea).trans (if_pos hfull))
  · obtain ⟨-, hused, -⟩ := hok
    exact ⟨_, exec_setZone h hread ((setZoneOp_area harea).trans (if_neg (Nat.not_lt.mpr hfits))),
      Reconciled.respond (State.closeEvent_reconcileMany (s.writeZone z new) s _ hused) _ _ _⟩

end Sys2Proof.Machine
end

section
/-! ## What changes the Building Store

The stations, zones, areas, timing settings and temperatures as one value, which every operation but the writing ones
leaves as it is. -/

namespace Sys2Proof.Machine

/-- The records of the Building Store (R1, R7, R13, R14, R15). -/
structure BuildingRecords where
  stations : Vector Station 32
  zones : Vector ZoneRecord 24
  areas : Vector AreaMode 8
  timing : Timing
  reportedTemperature : Int
  temperatureInUse : Int

/-- The Building Store among the held records. -/
def Held.building (v : Held) : BuildingRecords :=
  ⟨v.stations, v.zones, v.areas, v.timing, v.reportedTemperature, v.temperatureInUse⟩

/-- The Building Store of the part. -/
def State.building (s : State) : BuildingRecords := s.held.building

theorem State.building_of_held {s t : State} (e : t.held = s.held) : t.building = s.building := congrArg Held.building e

variable (s : State)

/-- A fold whose every step leaves the Building Store leaves it. -/
theorem foldl_building {α : Type} {op : State → α → State} (h : ∀ t x, (op t x).building = t.building) (l : List α) :
    (l.foldl op s).building = s.building :=
  List.foldlRecOn l op (motive := fun t => t.building = s.building) rfl fun t ht x _ => (h t x).trans ht

/-! ### Shared operations -/

@[simp] theorem State.building_setFeed (k : FeedKey) (f : Option Feed) : (s.setFeed k f).building = s.building := rfl
@[simp] theorem State.building_release (k : FeedKey) : (s.release k).building = s.building := rfl
@[simp] theorem State.building_setPlacement (src : Source) (p : Option Placement) :
    (s.setPlacement src p).building = s.building := rfl
@[simp] theorem State.building_setChannel (src : Source) (c : Channel) :
    (s.setChannel src c).building = s.building := rfl
@[simp] theorem State.building_setService (st : ServiceState) (r : Ramp) :
    (s.setService st r).building = s.building := rfl
@[simp] theorem State.building_setCue (l : Line) (c : CueLine) : (s.setCue l c).building = s.building := rfl
@[simp] theorem State.building_refreshGains : s.refreshGains.building = s.building := rfl

@[simp] theorem State.building_offer (k : FeedKey) : (s.offer k).building = s.building :=
  State.building_of_held (s.held_offer k)

@[simp] theorem State.building_offerAll (keys : List FeedKey) : (s.offerAll keys).building = s.building :=
  State.building_of_held (s.held_offerAll keys)

@[simp] theorem State.building_closeEvent (before : State) : (before.closeEvent s).building = s.building := by
  rw [State.closeEvent_eq]
  rfl

@[simp] theorem State.building_drop (k : FeedKey) : (s.drop k).building = s.building := by
  unfold State.drop
  split
  · rfl
  · split
    · rfl
    · rfl
    · split <;> rfl

@[simp] theorem State.building_reconcileZone (src : Source) (p : Placement) (z : Zone) :
    (s.reconcileZone src p z).building = s.building := by
  unfold State.reconcileZone
  split
  · simp [State.allocate]
  · split <;> simp
  · exact s.building_drop _

@[simp] theorem State.building_reconcile (src : Source) : (s.reconcile src).building = s.building := by
  unfold State.reconcile
  split
  · split
    · exact foldl_building s (fun t z => t.building_reconcileZone src _ z) _
    · rfl
  · rfl

@[simp] theorem State.building_reconcileMany (chosen : Source → Bool) :
    (s.reconcileMany chosen).building = s.building :=
  foldl_building s State.building_reconcile _

@[simp] theorem State.building_setGate (src : Source) (g : Gate) : (s.setGate src g).building = s.building := by
  rw [State.setGate_eq]
  rfl

@[simp] theorem State.building_takeUpDrive (src : Source) : (s.takeUpDrive src).building = s.building :=
  s.building_setGate src _

@[simp] theorem State.building_foldl_takeUpDrive (l : List Source) :
    (l.foldl State.takeUpDrive s).building = s.building :=
  foldl_building s State.building_takeUpDrive l

@[simp] theorem State.building_removeIfEmpty (src : Source) : (s.removeIfEmpty src).building = s.building := by
  unfold State.removeIfEmpty
  split
  · split <;> rfl
  · rfl

/-- A request behind the pool check leaves the Building Store as it was or as it writes it. -/
theorem building_afterPoolCheck (written : State) (chosen : Source → Bool) {finish : State → State}
    (hf : ∀ t, (finish t).building = t.building) :
    (afterPoolCheck s (s.poolChecked written chosen) finish).2.building = s.building ∨
      (afterPoolCheck s (s.poolChecked written chosen) finish).2.building = written.building := by
  rw [afterPoolCheck_eq]
  split
  · exact .inl rfl
  · exact .inr (by simp [hf])

/-! ### Placements and channels -/

@[simp] theorem building_placeOp (src : Source) (st : StationId) (sv : Service) (level : Int) :
    (placeOp src st sv level s).2.building = s.building := by
  unfold placeOp
  dsimp only
  split
  · rfl
  · split
    · rfl
    · exact (building_afterPoolCheck s _ _ fun t => t.building_takeUpDrive src).elim id id

@[simp] theorem building_moveOp (src : Source) (st : StationId) : (moveOp src st s).2.building = s.building := by
  unfold moveOp
  dsimp only
  split
  · rfl
  · split
    · rfl
    · split
      · rfl
      · split
        · rfl
        · exact (building_afterPoolCheck s _ _ fun t => rfl).elim id id

@[simp] theorem building_retireOp (src : Source) : (retireOp src s).2.building = s.building := by
  unfold retireOp
  dsimp only
  split
  · rfl
  · split
    · rfl
    · simp only [State.building_closeEvent, State.building_takeUpDrive, State.building_removeIfEmpty]
      exact foldl_building _ (fun t z => t.building_drop _) _

@[simp] theorem building_setLevelOp (src : Source) (level : Int) : (setLevelOp src level s).2.building = s.building := by
  unfold setLevelOp
  dsimp only
  split
  · rfl
  · split
    · rfl
    · simp

@[simp] theorem building_setSourceOp (src : Source) (r : SourceRecord) : (setSourceOp src r s).building = s.building := by
  unfold setSourceOp
  dsimp only
  split <;> rfl

@[simp] theorem building_setGateModeOp (src : Source) (m : GateMode) :
    (setGateModeOp src m s).2.building = s.building := by
  unfold setGateModeOp
  dsimp only
  split
  · rfl
  · split
    · simp only [State.building_closeEvent, State.building_takeUpDrive]
      rfl
    · rfl

@[simp] theorem State.building_evaluateBlock : s.evaluateBlock.building = s.building := by
  unfold State.evaluateBlock
  split
  · rw [State.building_closeEvent]
    obtain ⟨C, D, e, -⟩ := s.foldl_evaluateChannel
    rw [e]
    rfl
  · rfl

@[simp] theorem State.building_expireHold (src : Source) : (s.expireHold src).building = s.building := by
  unfold State.expireHold
  dsimp only
  split
  · simp
  · rfl

@[simp] theorem State.building_completeOpening (src : Source) : (s.completeOpening src).building = s.building := by
  unfold State.completeOpening
  split
  · split
    · simp
    · rfl
  · rfl

@[simp] theorem State.building_completeClosing (src : Source) : (s.completeClosing src).building = s.building := by
  unfold State.completeClosing
  split
  · split
    · simp
    · rfl
  · rfl

@[simp] theorem State.building_completeTrim (src : Source) : (s.completeTrim src).building = s.building := by
  unfold State.completeTrim
  dsimp only
  split <;> rfl

/-! ### Feeds -/

@[simp] theorem State.building_completeGlide (k : FeedKey) : (s.completeGlide k).building = s.building := by
  unfold State.completeGlide
  split
  · split
    · simp
    · rfl
  · rfl

@[simp] theorem State.building_completeFadeIn (k : FeedKey) : (s.completeFadeIn k).building = s.building := by
  unfold State.completeFadeIn
  split
  · split
    · split
      · simp
      · rfl
    · rfl
  · rfl

@[simp] theorem State.building_completeFadeOut (k : FeedKey) : (s.completeFadeOut k).building = s.building := by
  unfold State.completeFadeOut
  split
  · split
    · split
      · simp
      · rfl
    · rfl
  · rfl

@[simp] theorem State.building_completeGain (k : FeedKey) : (s.completeGain k).building = s.building := by
  unfold State.completeGain
  split
  · split <;> rfl
  · rfl

@[simp] theorem State.building_derive : s.derive.building = s.building := by
  unfold State.derive
  split
  · rfl
  · dsimp only
    split
    · rw [State.building_closeEvent]
      split
      · rfl
      · unfold State.deriveFeed
        dsimp only
        split <;> rfl
    · rw [State.building_closeEvent]
      rfl

/-! ### Service control, cues and the frame -/

@[simp] theorem State.building_wake : s.wake.building = s.building := by
  unfold State.wake
  dsimp only
  split
  · rfl
  · rfl
  · simp

@[simp] theorem State.building_endEntry : s.endEntry.building = s.building := by
  unfold State.endEntry State.completeEntry
  split
  · rw [State.building_closeEvent]
    exact foldl_building _ State.building_removeIfEmpty _
  · rfl

/-- A warm restart keeps the Building Store (R167). -/
@[simp] theorem State.building_clear (cause : RestartCause) (pins : Byte) :
    (s.clear cause pins).building = s.building := by
  unfold State.clear
  simp only [State.building_refreshGains, State.building_foldl_takeUpDrive, State.building_reconcileMany]
  rfl

@[simp] theorem CueAction.building_perform (a : CueAction) : (a.perform s).2.building = s.building := by
  cases a with
  | none => rfl
  | place src st sv level => exact building_placeOp s src st sv level
  | move src st => exact building_moveOp s src st
  | retire src => exact building_retireOp s src
  | gateMode src m => exact building_setGateModeOp s src m
  | wake => exact s.building_wake

@[simp] theorem State.building_recordAction (l : Line) (result : ResultCode) :
    (s.recordAction l result).building = s.building := by
  unfold State.recordAction
  dsimp only
  split <;> rfl

@[simp] theorem State.building_debouncedChange (l : Line) : (s.debouncedChange l).building = s.building := by
  unfold State.debouncedChange
  dsimp only
  split
  · rfl
  · split
    · rw [State.building_recordAction, CueAction.building_perform]
      rfl
    · rfl

@[simp] theorem State.building_foldl_debouncedChange (l : List Line) :
    (l.foldl State.debouncedChange s).building = s.building :=
  foldl_building s State.building_debouncedChange l

@[simp] theorem State.building_completeMute (z : Zone) : (s.completeMute z).building = s.building := by
  unfold State.completeMute
  dsimp only
  split <;> rfl

@[simp] theorem State.building_takeDueChannel (src : Source) : (s.takeDueChannel src).building = s.building := by
  unfold State.takeDueChannel
  rw [State.building_of_held (foldl_held _ (fun t i => t.held_completeSection src i) _)]
  simp

@[simp] theorem State.building_takeDueFeed (k : FeedKey) : (s.takeDueFeed k).building = s.building := by
  simp [State.takeDueFeed]

theorem State.building_takeDue : s.takeDue.building = s.building := by
  have hswitch := State.building_of_held (s.switchChange.held_switchComplete.trans s.held_switchChange)
  have hramp := State.building_of_held (State.held_completeServiceRamp s.switchChange.switchComplete.endEntry)
  have hend := State.building_of_held
    ((State.held_advanceAging (allZones.foldl State.completeMute (allFeeds.foldl State.takeDueFeed
      (allSources.foldl State.takeDueChannel
        s.switchChange.switchComplete.endEntry.completeServiceRamp))).evaluateBlock.endWindow).trans
      (State.held_endWindow _))
  refine Eq.trans hend ?_
  rw [State.building_evaluateBlock, foldl_building _ State.building_completeMute,
    foldl_building _ State.building_takeDueFeed, foldl_building _ State.building_takeDueChannel, hramp,
    State.building_endEntry, hswitch]

theorem State.building_frame (input : Vector Sample 16) : (s.frame input).building = s.building := by
  obtain ⟨portA, portB, e⟩ := s.frame_eq input
  rw [e]
  rfl

/-! ### The writing requests -/

theorem building_setStationOp (st : StationId) (position : Point) (reach : ZoneSet) :
    (setStationOp st position reach s).2.building = s.building ∨
      ∃ r, (setStationOp st position reach s).2.building = (s.writeStation st r).building := by
  unfold setStationOp
  dsimp only
  split
  · exact .inr ⟨_, rfl⟩
  · split
    · exact (building_afterPoolCheck s _ _ fun t => rfl).imp id fun e => ⟨_, e⟩
    · split
      · exact .inr ⟨_, by rw [State.building_closeEvent, State.building_offerAll]⟩
      · exact .inl rfl

theorem building_setZoneOp (z : Zone) (r : ZoneRecord) :
    (setZoneOp z r s).2.building = s.building ∨ (setZoneOp z r s).2.building = (s.writeZone z r).building := by
  unfold setZoneOp
  dsimp only
  split
  · exact building_afterPoolCheck s _ _ fun t => rfl
  · split
    · exact .inr (by rw [State.building_closeEvent, State.building_offerAll])
    · exact .inr rfl

theorem building_setAreaOp (a : AreaId) (mode : AreaMode) : (setAreaOp a mode s).2.building = s.building ∨
    (setAreaOp a mode s).2.building = { s.building with areas := vset s.areas a mode } := by
  unfold setAreaOp
  split
  · exact .inl rfl
  · exact building_afterPoolCheck s { s with areas := vset s.areas a mode } _ fun t => rfl

theorem building_setTimingOp (new : Timing) : (setTimingOp new s).building = s.building ∨
    (setTimingOp new s).building = { s.building with timing := new } := by
  unfold setTimingOp
  dsimp only
  split
  · exact .inl rfl
  · rw [State.building_foldl_debouncedChange]
    exact .inr rfl

theorem building_reportTemperature (t : Int) :
    ∃ inUse, (reportTemperature t s).building =
      { s.building with reportedTemperature := t, temperatureInUse := inUse } := by
  unfold reportTemperature
  dsimp only
  split
  · exact ⟨t, by rw [State.building_closeEvent, State.building_offerAll]; rfl⟩
  · exact ⟨s.temperatureInUse, rfl⟩

/-! ### Every command -/

/-- A command that is none of the writing requests leaves each record of the Building Store. -/
def KeepsBuilding (i : Instr) (s t : State) : Prop :=
  ((∀ a b c, i ≠ .setStation a b c) → (∀ a, i ≠ .clearStation a) → t.stations = s.stations) ∧
  ((∀ p, i ≠ .setZone p) → t.zones = s.zones) ∧
  ((∀ a b c, i ≠ .setArea a b c) → t.areas = s.areas) ∧
  ((∀ p, i ≠ .setTiming p) → t.timing = s.timing) ∧
  ((∀ h, i ≠ .setTemperature h) →
    t.reportedTemperature = s.reportedTemperature ∧ t.temperatureInUse = s.temperatureInUse)

section
variable {s} {i : Instr}

theorem keepsBuilding_of_building {t : State} (e : t.building = s.building) : KeepsBuilding i s t :=
  ⟨fun _ _ => congrArg BuildingRecords.stations e, fun _ => congrArg BuildingRecords.zones e,
    fun _ => congrArg BuildingRecords.areas e, fun _ => congrArg BuildingRecords.timing e,
    fun _ => ⟨congrArg BuildingRecords.reportedTemperature e, congrArg BuildingRecords.temperatureInUse e⟩⟩

/-- What a command keeps is a matter of the Building Store left alone. -/
theorem KeepsBuilding.congr {t u : State} (h : KeepsBuilding i s t) (e : u.building = t.building) :
    KeepsBuilding i s u := by
  obtain ⟨hst, hz, ha, ht, htemp⟩ := h
  obtain ⟨est, ez, ea, et, er, eu⟩ := BuildingRecords.mk.inj e
  exact ⟨fun h1 h2 => est.trans (hst h1 h2), fun h1 => ez.trans (hz h1), fun h1 => ea.trans (ha h1),
    fun h1 => et.trans (ht h1), fun h1 => ⟨er.trans (htemp h1).1, eu.trans (htemp h1).2⟩⟩

theorem onRequest_keepsBuilding {act : State → Reply} (hact : KeepsBuilding i s (act s).2.2) :
    Leaves (KeepsBuilding i s) (onRequest i s act) :=
  onRequest_leaves (fun _ _ e h => h.congr (State.building_of_held e)) _ (keepsBuilding_of_building rfl) hact

/-- A request whose rule leaves the Building Store. -/
theorem onRequest_building {act : State → Reply} (hact : (act s).2.2.building = s.building) :
    Leaves (KeepsBuilding i s) (onRequest i s act) :=
  onRequest_keepsBuilding (keepsBuilding_of_building hact)

/-- An event that leaves the Building Store. -/
theorem next_building {t : State} (e : t.building = s.building) : Leaves (KeepsBuilding i s) (.next t) :=
  leaves_next.mpr (keepsBuilding_of_building e)

end

/-- Every command but power-on reset keeps the records it does not write. -/
theorem exec_keepsBuilding (i : Instr) (hreset : ∀ pins, i ≠ .powerOnReset pins) :
    Leaves (KeepsBuilding i s) (exec i s) := by
  cases hw : writesHeld i with
  | false => exact fun t ht => keepsBuilding_of_building (State.building_of_held (exec_held hw t ht))
  | true =>
    cases i with dsimp only [exec]
    | wake => exact onRequest_building s.building_wake
    | setStation station position reach =>
      refine onRequest_keepsBuilding ?_
      split
      · next st _ =>
        rcases building_setStationOp s st (asPoint position) reach with e | ⟨r, e⟩
        · exact keepsBuilding_of_building e
        · obtain ⟨-, ez, ea, et, er, eu⟩ := BuildingRecords.mk.inj e
          exact ⟨fun h _ => absurd rfl (h _ _ _), fun _ => ez, fun _ => ea, fun _ => et, fun _ => ⟨er, eu⟩⟩
      · exact keepsBuilding_of_building rfl
    | clearStation station =>
      refine onRequest_keepsBuilding ?_
      split
      · split
        · exact keepsBuilding_of_building rfl
        · split
          · exact ⟨fun _ h => absurd rfl (h _), fun _ => rfl, fun _ => rfl, fun _ => rfl, fun _ => ⟨rfl, rfl⟩⟩
          · exact keepsBuilding_of_building rfl
      · exact keepsBuilding_of_building rfl
    | setZone payload =>
      refine onRequest_keepsBuilding ?_
      split
      · next z r _ =>
        rcases building_setZoneOp s z r with e | e
        · exact keepsBuilding_of_building e
        · obtain ⟨est, -, ea, et, er, eu⟩ := BuildingRecords.mk.inj e
          exact ⟨fun _ _ => est, fun h => absurd rfl (h _), fun _ => ea, fun _ => et, fun _ => ⟨er, eu⟩⟩
      · exact keepsBuilding_of_building rfl
    | setArea area mode service =>
      refine onRequest_keepsBuilding ?_
      split
      · split
        · exact keepsBuilding_of_building rfl
        · next a m _ _ _ =>
          rcases building_setAreaOp s a m with e | e
          · exact keepsBuilding_of_building e
          · obtain ⟨est, ez, -, et, er, eu⟩ := BuildingRecords.mk.inj e
            exact ⟨fun _ _ => est, fun _ => ez, fun h => absurd rfl (h _ _ _), fun _ => et, fun _ => ⟨er, eu⟩⟩
      · exact keepsBuilding_of_building rfl
    | setTemperature temperature =>
      refine onRequest_keepsBuilding ?_
      obtain ⟨inUse, e⟩ := building_reportTemperature s (clampInt (-100) 400 temperature.toInt)
      obtain ⟨est, ez, ea, et, -, -⟩ := BuildingRecords.mk.inj e
      exact ⟨fun _ _ => est, fun _ => ez, fun _ => ea, fun _ => et, fun h => absurd rfl (h _)⟩
    | setTiming payload =>
      refine onRequest_keepsBuilding ?_
      split
      · next new _ =>
        rcases building_setTimingOp s new with e | e
        · exact keepsBuilding_of_building e
        · obtain ⟨est, ez, ea, -, er, eu⟩ := BuildingRecords.mk.inj e
          exact ⟨fun _ _ => est, fun _ => ez, fun _ => ea, fun h => absurd rfl (h _), fun _ => ⟨er, eu⟩⟩
      · exact keepsBuilding_of_building rfl
    | place source station service level =>
      refine onRequest_building ?_
      split
      · exact building_placeOp s _ _ _ _
      · rfl
    | move source station =>
      refine onRequest_building ?_
      split
      · exact building_moveOp s _ _
      · rfl
    | setLevel source level =>
      refine onRequest_building ?_
      split
      · exact building_setLevelOp s _ _
      · rfl
    | retire source =>
      refine onRequest_building ?_
      split
      · exact building_retireOp s _
      · rfl
    | setSource payload =>
      refine onRequest_building ?_
      split
      · exact building_setSourceOp s _ _
      · rfl
    | setGateMode source mode =>
      refine onRequest_building ?_
      split
      · exact building_setGateModeOp s _ _
      · rfl
    | getZoneMeters => exact onRequest_building rfl
    | setCue payload =>
      refine onRequest_building ?_
      split <;> rfl
    | getCueStatus => exact onRequest_building rfl
    | powerOnReset cuePins => exact absurd rfl (hreset cuePins)
    | clearing cuePins =>
      refine next_building ?_
      split
      · split
        · exact s.building_clear _ _
        · rfl
      · rfl
    | derivation => exact next_building s.building_derive
    | glideComplete source zone => exact next_building (s.building_completeGlide _)
    | fadeInComplete source zone => exact next_building (s.building_completeFadeIn _)
    | fadeOutComplete source zone => exact next_building (s.building_completeFadeOut _)
    | audioFrame input =>
      refine next_building ?_
      split
      · rw [State.building_frame, State.building_takeDue]
      · rfl
    | blockEvaluation => exact next_building s.building_evaluateBlock
    | holdExpiry source => exact next_building (s.building_expireHold source)
    | openingComplete source => exact next_building (s.building_completeOpening source)
    | closingComplete source => exact next_building (s.building_completeClosing source)
    | trimRampComplete source => exact next_building (s.building_completeTrim source)
    | gainMovementComplete source zone => exact next_building (s.building_completeGain _)
    | muteRampComplete zone => exact next_building (s.building_completeMute zone)
    | debouncedChange line => exact next_building (s.building_debouncedChange line)
    | standbyEntryComplete => exact next_building s.building_endEntry
    | cuePinSample pins =>
      refine next_building ?_
      exact s.building_foldl_debouncedChange allLines
    | _ => cases hw

/-! ### The nave -/

/-- SET_AREA leaves the nave joined: it is refused for area 0 (R117). -/
theorem exec_setArea_naveJoined (h : s.NaveJoined) (area mode service : Byte) :
    Leaves State.NaveJoined (exec (.setArea area mode service) s) := by
  show Leaves State.NaveJoined (execSetArea area mode service s)
  refine onRequest_leaves (fun _ _ e hs => ?_) _ h ?_
  · exact (congrArg (fun v : Held => vget v.areas 0) e).trans hs
  · split
    · split
      · exact h
      · next a m _ _ hne =>
        rcases building_setAreaOp s a m with e | e
        · exact (congrArg (fun v : BuildingRecords => vget v.areas 0) e).trans h
        · have hother : vget (vset s.areas a m) 0 = vget s.areas 0 := vget_vset_other _ _ hne
          exact (congrArg (fun v : BuildingRecords => vget v.areas 0) e).trans (hother.trans h)
    · exact h

/-- No command separates the nave (R117). -/
theorem exec_naveJoined (h : s.NaveJoined) (i : Instr) : Leaves State.NaveJoined (exec i s) := by
  by_cases hreset : ∃ pins, i = .powerOnReset pins
  · obtain ⟨pins, rfl⟩ := hreset
    exact leaves_next.mpr (vget_vgen _ 0)
  · by_cases harea : ∃ a m v, i = .setArea a m v
    · obtain ⟨a, m, v, rfl⟩ := harea
      exact exec_setArea_naveJoined s h a m v
    · intro t ht
      obtain ⟨-, -, hkept, -, -⟩ := exec_keepsBuilding s i (fun pins e => hreset ⟨pins, e⟩) t ht
      have hareas : t.areas = s.areas := hkept fun a m v e => harea ⟨a, m, v, e⟩
      exact (congrArg (fun areas => vget areas 0) hareas).trans h

/-- Settles O22: every command keeps the records it does not write, and SET_AREA is refused for the nave. -/
theorem buildingKept : Obligations.BuildingKept := by
  unfold Obligations.BuildingKept
  refine ⟨fun s t h hstep => ?_, fun i s t hreset ht => exec_keepsBuilding s i hreset t ht⟩
  exact step_leaves h (fun i rest => exec_naveJoined { s with pending := rest } h i) hstep

end Sys2Proof.Machine
end

section
/-! ## SET_TIMING -/

namespace Sys2Proof.Machine

/-- A notch whose quiet time is at most a decay time, DYNAMIC ones alone being shortened to it (R16). -/
def Notch.capped (decay : Nat) (n : Notch) : Notch :=
  if n.kind = .dynamic then { n with quietTime := min n.quietTime decay } else n

theorem Notch.capQuiet_eq (decay : Nat) (n : Notch) : n.capQuiet decay = n.capped decay := by
  unfold Notch.capQuiet Notch.capped
  by_cases hk : n.kind = .dynamic
  · by_cases hq : decay ≤ n.quietTime
    · rw [if_pos ⟨hk, hq⟩, if_pos hk, min_eq_right hq]
    · rw [if_neg fun h => hq h.2, if_pos hk, min_eq_left (Nat.le_of_not_le hq)]
  · rw [if_neg fun h => hk h.1, if_neg hk]

theorem Notch.capped_of_le {decay : Nat} {n : Notch} (h : n.quietTime ≤ decay) : n.capped decay = n := by
  unfold Notch.capped
  rw [min_eq_left h]
  split <;> rfl

/-- The part with timing settings written and the quiet times they overtake shortened (R15, R16). -/
def State.retimed (s : State) (new : Timing) : State :=
  { s with
    timing := new
    notches := vgen fun src => (vget s.notches src).map (Notch.capped new.notchDecay) }

section
variable {s : State} (hok : s.NotchTablesOk)
include hok

/-- No quiet time is shortened by a decay time that is not shorter than the one in force. -/
theorem State.cappedNotches_of_le {decay : Nat} (h : s.timing.notchDecay ≤ decay) :
    (vgen fun src => (vget s.notches src).map (Notch.capped decay)) = s.notches := by
  refine vext fun src => ?_
  rw [vget_vgen]
  obtain ⟨-, -, hfields⟩ := hok src
  have hsame : ∀ n ∈ vget s.notches src, Notch.capped decay n = id n := fun n hn => by
    obtain ⟨-, -, -, hquiet, -⟩ := hfields n hn
    exact Notch.capped_of_le (hquiet.trans h)
  rw [List.map_congr_left hsame, List.map_id]

theorem State.retimed_self : s.retimed s.timing = s := by
  unfold State.retimed
  rw [State.cappedNotches_of_le hok le_rfl]

/-- New timing settings are written with the quiet times they overtake, and the lines that now count do so (R15, R16). -/
theorem setTimingOp_eq {new : Timing} (hne : s.timing ≠ new) :
    setTimingOp new s = allLines.foldl State.debouncedChange (s.retimed new) := by
  have hcap : Notch.capQuiet new.notchDecay = Notch.capped new.notchDecay := funext (Notch.capQuiet_eq _)
  unfold setTimingOp
  rw [if_neg hne]
  dsimp only
  rw [hcap]
  split
  · rfl
  · next hlt =>
    unfold State.retimed
    rw [State.cappedNotches_of_le hok (Nat.le_of_not_lt hlt)]

end

/-- A line whose raw level has not held for the debounce time, or is the debounced level, does not change (R128). -/
theorem State.debouncedChange_still {s : State} {l : Line}
    (h : (vget s.cues l).raw = (vget s.cues l).debounced ∨ (vget s.cues l).held < s.timing.debounce) :
    s.debouncedChange l = s := by
  have hcounts : (vget s.cues l).counts s.timing.debounce = false := by
    rcases h with h | h <;> simp [CueLine.counts, h]
  simp [State.debouncedChange, hcounts]

theorem runCommands_debouncedChange (s : State) :
    runCommands (allLines.map .debouncedChange) s = .next (allLines.foldl State.debouncedChange s) := by
  have h := runCommands_map .debouncedChange State.debouncedChange (fun _ _ => rfl) allLines s []
  rwa [List.append_nil] at h

theorem exec_setTiming_outOfRange {s : State} (h : s.takesRequest = true) {p : TimingPayload}
    (hp : 2 ≤ p.fadeShape.toNat) : exec (.setTiming p) s = .next (s.respond .outOfRange 0x1A []) := by
  show execSetTiming p s = _
  exact onRequest_answers rfl h (by simp only [asTiming, asFadeShape_of_le hp, refuse])

theorem asTiming_eq {p : TimingPayload} {shape : FadeShape} (hp : p.fadeShape.toNat = shape.code) :
    asTiming p = some {
      glideTime := max 10 (min 500 p.glideTime.toNat)
      fadeTime := max 20 (min 2000 p.fadeTime.toNat)
      fadeShape := shape
      notchDecay := max 10 (min 600 p.notchDecay.toNat)
      deadband := min 50 p.deadband.toNat
      debounce := max 5 (min 100 p.debounce.toNat) } := by
  simp [asTiming, asFadeShape_of_eq shape hp, clampNat]

theorem exec_setTiming {s : State} (h : s.takesRequest = true) {p : TimingPayload} {new : Timing}
    (hp : asTiming p = some new) : exec (.setTiming p) s = .next ((setTimingOp new s).respond .ok 0x1A []) := by
  show execSetTiming p s = _
  exact onRequest_answers rfl h (by simp only [hp, accept])

/-- Settles O21: the settings in force again change nothing; others are written, and the pending levels they let count do
so as the debounced changes of their lines in turn (R15, R16). -/
theorem timingWritten : Obligations.TimingWritten := by
  unfold Obligations.TimingWritten
  refine fun p s h => ⟨exec_setTiming_outOfRange h, fun shape hshape => ?_⟩
  intro new written hok
  obtain ⟨htables, -⟩ := hok
  have hexec : exec (.setTiming p) s = .next ((setTimingOp new s).respond .ok 0x1A []) :=
    exec_setTiming h (asTiming_eq hshape)
  have hwritten : written = s.retimed new := rfl
  have hsame : s.timing = new → setTimingOp new s = s := fun e => if_pos e
  refine ⟨fun hstill => ?_, fun hne => ?_, fun heq => ?_⟩
  · rw [hexec, hwritten]
    by_cases heq : s.timing = new
    · rw [hsame heq, ← heq, State.retimed_self htables]
    · have hlines : allLines.foldl State.debouncedChange (s.retimed new) = s.retimed new :=
        foldl_still (fun l => State.debouncedChange_still (hstill l)) _
      rw [setTimingOp_eq htables heq, hlines]
  · refine ⟨_, runCommands_debouncedChange written, ?_⟩
    rw [hexec, hwritten, setTimingOp_eq htables hne]
  · rw [hexec, hsame heq]

end Sys2Proof.Machine
end

section
/-! ## Levels and linear factors -/

namespace Sys2Proof.Machine

/-! ### The held factors -/

/-- A search upward in powers of two ends where the next number no longer fits. -/
theorem largestFitting_spec {fits : Nat → Bool} (bits acc : Nat) (hlow : fits acc = true)
    (hhigh : fits (acc + 2 ^ bits) = false) :
    fits (largestFitting fits bits acc) = true ∧ fits (largestFitting fits bits acc + 1) = false := by
  induction bits generalizing acc with
  | zero => exact ⟨hlow, hhigh⟩
  | succ bits ih =>
    unfold largestFitting
    split
    · next hmid =>
      refine ih _ hmid ?_
      rwa [add_assoc, ← two_mul, ← pow_succ']
    · next hmid => exact ih _ hlow (Bool.eq_false_iff.mpr hmid)

/-- Twice 2^21 times the factor 10^(g/n), rounded down, where the factor is below 32. -/
theorem doubledFactor_spec {g : Int} {n : Nat} (hn : n ≠ 0)
    (hbelow : 2 ^ (22 * n) * 10 ^ g.toNat < 2 ^ (27 * n) * 10 ^ (-g).toNat) :
    doubledFactor g n ^ n * 10 ^ (-g).toNat ≤ 2 ^ (22 * n) * 10 ^ g.toNat ∧
      2 ^ (22 * n) * 10 ^ g.toNat < (doubledFactor g n + 1) ^ n * 10 ^ (-g).toNat := by
  have h := largestFitting_spec (fits := fun r => decide (r ^ n * 10 ^ (-g).toNat ≤ 2 ^ (22 * n) * 10 ^ g.toNat)) 27 0
    (by simp [hn])
    (by simpa only [zero_add, ← pow_mul, decide_eq_false_iff_not, not_le] using hbelow)
  simpa [doubledFactor] using h

/-- The held factor is the multiple of 2^−21 nearest to 10^(g/n), where that is at least 2^−22 and below 32 (R58). -/
theorem heldFactor_spec {g : Int} {n : Nat} (hn : n ≠ 0)
    (hbelow : 2 ^ (22 * n) * 10 ^ g.toNat < 2 ^ (27 * n) * 10 ^ (-g).toNat)
    (habove : 10 ^ (-g).toNat ≤ 2 ^ (22 * n) * 10 ^ g.toNat) :
    ∃ m : Nat, heldFactor g n = (m : Rat) / 2 ^ 21 ∧ 0 < m ∧
      (2 * m - 1) ^ n * 10 ^ (-g).toNat ≤ 2 ^ (22 * n) * 10 ^ g.toNat ∧
      2 ^ (22 * n) * 10 ^ g.toNat < (2 * m + 1) ^ n * 10 ^ (-g).toNat := by
  obtain ⟨hle, hlt⟩ := doubledFactor_spec hn hbelow
  have hpos : 0 < doubledFactor g n := by
    refine Nat.pos_of_ne_zero fun e => ?_
    rw [e, zero_add, one_pow, one_mul] at hlt
    omega
  refine ⟨(doubledFactor g n + 1) / 2, rfl, by omega, ?_, ?_⟩
  · refine le_trans (Nat.mul_le_mul_right _ (Nat.pow_le_pow_left ?_ n)) hle
    omega
  · refine lt_of_lt_of_le hlt (Nat.mul_le_mul_right _ (Nat.pow_le_pow_left ?_ n))
    omega

theorem ten_pow_le (n : Nat) : (10 : Nat) ^ n ≤ 2 ^ (4 * n) := by
  rw [pow_mul]
  exact Nat.pow_le_pow_left (by norm_num) n

/-- The factors of the levels above silence (R58, R84). -/
theorem factorOf_spec {g : Int} (hlo : -192 < g) (hhi : g ≤ 48) : ∃ m : Nat, factorOf g = (m : Rat) / 2 ^ 21 ∧ 0 < m ∧
    (2 * m - 1) ^ 40 * 10 ^ (-g).toNat ≤ 2 ^ 880 * 10 ^ g.toNat ∧
    2 ^ 880 * 10 ^ g.toNat < (2 * m + 1) ^ 40 * 10 ^ (-g).toNat := by
  have hup1 : 1 ≤ (10 : Nat) ^ g.toNat := Nat.one_le_pow _ _ (by norm_num)
  have hdown1 : 1 ≤ (10 : Nat) ^ (-g).toNat := Nat.one_le_pow _ _ (by norm_num)
  have hbelow : 2 ^ (22 * 40) * 10 ^ g.toNat < 2 ^ (27 * 40) * 10 ^ (-g).toNat :=
    calc 2 ^ (22 * 40) * 10 ^ g.toNat ≤ 2 ^ (22 * 40) * 2 ^ (4 * g.toNat) := Nat.mul_le_mul_left _ (ten_pow_le _)
      _ = 2 ^ (22 * 40 + 4 * g.toNat) := (pow_add 2 (22 * 40) _).symm
      _ < 2 ^ (27 * 40) := pow_lt_pow_right₀ (by norm_num) (by omega)
      _ ≤ 2 ^ (27 * 40) * 10 ^ (-g).toNat := Nat.le_mul_of_pos_right _ hdown1
  have habove : 10 ^ (-g).toNat ≤ 2 ^ (22 * 40) * 10 ^ g.toNat :=
    calc 10 ^ (-g).toNat ≤ 2 ^ (4 * (-g).toNat) := ten_pow_le _
      _ ≤ 2 ^ (22 * 40) := pow_le_pow_right₀ (by norm_num) (by omega)
      _ ≤ 2 ^ (22 * 40) * 10 ^ g.toNat := Nat.le_mul_of_pos_right _ hup1
  have h := heldFactor_spec (by norm_num) hbelow habove
  rwa [show 22 * 40 = 880 from rfl] at h

/-! ### The fade weights -/

/-- A bound on a power is the same for every spelling of its exponent as a ratio. -/
theorem pow_mul_le_iff_of_ratio {a p q n d : Nat} (hd : d ≠ 0) (hq : q ≠ 0) (h : n * q = p * d) :
    a ^ d * 10 ^ n ≤ 2 ^ (22 * d) ↔ a ^ q * 10 ^ p ≤ 2 ^ (22 * q) := by
  have hleft : (a ^ d * 10 ^ n) ^ q = (a ^ q * 10 ^ p) ^ d := by
    rw [mul_pow, mul_pow, ← pow_mul, ← pow_mul, ← pow_mul, ← pow_mul, h, mul_comm d q]
  have hright : (2 ^ (22 * d)) ^ q = (2 ^ (22 * q)) ^ d := by
    rw [← pow_mul, ← pow_mul]
    congr 1
    ring
  rw [← Nat.pow_le_pow_iff_left hq, hleft, hright, Nat.pow_le_pow_iff_left hd]

/-- The CONSTANT_DB weight of a fade level above 0 is the multiple of 2^−21 nearest to 10^(−4.8 (1 − L)) (R74; log 10). -/
theorem fadeWeight_constantDb_spec {level : Rat} {p q : Nat} (hlo : 0 < level) (hhi : level ≤ 1) (hq : 0 < q)
    (h : 48 / 10 * (1 - level) = (p : Rat) / q) :
    ∃ m : Nat, fadeWeight .constantDb level = (m : Rat) / 2 ^ 21 ∧ 0 < m ∧ m ≤ 2 ^ 21 ∧
      (2 * m - 1) ^ q * 10 ^ p ≤ 2 ^ (22 * q) ∧ 2 ^ (22 * q) < (2 * m + 1) ^ q * 10 ^ p := by
  obtain ⟨x, hx⟩ : ∃ x : Rat, x = 48 / 10 * (1 - level) := ⟨_, rfl⟩
  have hx0 : 0 ≤ x := by rw [hx]; linarith
  have hx5 : x < 5 := by rw [hx]; linarith
  obtain ⟨n, hn⟩ : ∃ n : Nat, x.num = n := Int.eq_ofNat_of_zero_le (Rat.num_nonneg.mpr hx0)
  have hden : x.den ≠ 0 := x.den_nz
  have hdenpos : (0 : Rat) < x.den := by exact_mod_cast Nat.pos_of_ne_zero hden
  have hvalue : x = (n : Rat) / x.den := by
    conv_lhs => rw [← Rat.num_div_den x, hn]
    rfl
  have hratio : n * q = p * x.den := by
    have hqpos : (q : Rat) ≠ 0 := by exact_mod_cast hq.ne'
    have := hvalue.symm.trans (hx.trans h)
    rw [div_eq_div_iff hdenpos.ne' hqpos] at this
    exact_mod_cast this
  have hbound : n ≤ 5 * x.den := by
    have : (n : Rat) < 5 * x.den := by
      rw [← div_lt_iff₀ hdenpos, ← hvalue]
      exact hx5
    exact_mod_cast this.le
  have hpow : 10 ^ n ≤ 2 ^ (22 * x.den) :=
    (ten_pow_le n).trans (Nat.pow_le_pow_right (by norm_num) (by omega))
  have hweight : fadeWeight .constantDb level = heldFactor (-(n : Int)) x.den := by
    have he : -192 * (1 - level) / 40 = -x := by rw [hx]; ring
    simp only [fadeWeight, not_le.mpr hlo, if_false, he, Rat.num_neg_eq_neg_num, Rat.neg_den, hn]
  have hgrow : 2 ^ (22 * x.den) < 2 ^ (27 * x.den) * 10 ^ n :=
    calc 2 ^ (22 * x.den) < 2 ^ (27 * x.den) * 1 := by
          rw [mul_one]
          exact Nat.pow_lt_pow_right (by norm_num) (by omega)
      _ ≤ 2 ^ (27 * x.den) * 10 ^ n := Nat.mul_le_mul_left _ (Nat.one_le_pow _ _ (by norm_num))
  obtain ⟨m, hm, hpos, hle, hlt⟩ := heldFactor_spec (g := -(n : Int)) hden (by simpa using hgrow) (by simpa using hpow)
  simp only [neg_neg, Int.toNat_natCast, Int.toNat_neg_natCast, pow_zero, mul_one] at hle hlt
  have hle' := (pow_mul_le_iff_of_ratio hden hq.ne' hratio).mp hle
  refine ⟨m, hweight.trans hm, hpos, ?_, hle', not_le.mp fun e => not_le.mpr hlt
    ((pow_mul_le_iff_of_ratio hden hq.ne' hratio).mpr e)⟩
  have hroot : (2 * m - 1) ^ q ≤ (2 ^ 22) ^ q := by
    rw [← pow_mul]
    exact le_trans (Nat.le_mul_of_pos_right _ (by positivity)) hle'
  have := (Nat.pow_le_pow_iff_left hq.ne').mp hroot
  omega

/-- A full fade level has weight 1 (R74). -/
theorem fadeWeight_constantDb_one : fadeWeight .constantDb 1 = 1 := by
  obtain ⟨m, hm, -, -, hle, hlt⟩ := fadeWeight_constantDb_spec (level := 1) (p := 0) (q := 1) (by norm_num) (by norm_num)
    (by norm_num) (by norm_num)
  obtain rfl : m = 2 ^ 21 := by
    simp only [pow_one, pow_zero, mul_one] at hle hlt
    omega
  rw [hm]
  norm_num

/-! ### Levels of samples -/

/-- The steps down to a ratio: the least number that reaches it, or the last one allowed. -/
theorem stepsDown_spec (num den fuel k : Nat) :
    k ≤ stepsDown num den fuel k ∧ stepsDown num den fuel k ≤ k + fuel ∧
      (stepsDown num den fuel k < k + fuel → den ≤ num * 10 ^ stepsDown num den fuel k) ∧
      (∀ j, k ≤ j → j < stepsDown num den fuel k → num * 10 ^ j < den) := by
  induction fuel generalizing k with
  | zero => exact ⟨le_rfl, le_rfl, fun h => absurd h (lt_irrefl _), fun j h1 h2 => absurd h1 (not_le.mpr h2)⟩
  | succ fuel ih =>
    unfold stepsDown
    split
    · next hreach => exact ⟨le_rfl, by omega, fun _ => hreach, fun j h1 h2 => absurd h1 (not_le.mpr h2)⟩
    · next hbelow =>
      obtain ⟨h1, h2, h3, h4⟩ := ih (k + 1)
      refine ⟨by omega, by omega, fun h => h3 (by omega), fun j hj hlt => ?_⟩
      rcases Nat.eq_or_lt_of_le hj with rfl | hj
      · exact not_le.mp hbelow
      · exact h4 j hj hlt

/-- The level of a ratio, from −240 to 0: it reaches the ratio, and one hdB more does not (R85, R147). -/
theorem levelOfRatio_spec (num den : Nat) :
    -240 ≤ levelOfRatio num den ∧ levelOfRatio num den ≤ 0 ∧
      (-240 < levelOfRatio num den → den ≤ num * 10 ^ (-levelOfRatio num den).toNat) ∧
      (levelOfRatio num den < 0 → num * 10 ^ (-levelOfRatio num den - 1).toNat < den) := by
  obtain ⟨-, hmax, hreach, hleast⟩ := stepsDown_spec num den 240 0
  unfold levelOfRatio
  generalize stepsDown num den 240 0 = k at hmax hreach hleast ⊢
  have hneg : (-(-(k : Int))).toNat = k := by omega
  refine ⟨by omega, by omega, fun h => ?_, fun h => hleast _ (Nat.zero_le _) (by omega)⟩
  rw [hneg]
  exact hreach (by omega)

/-! ### Open microphones -/

theorem attenuation_nonneg (n : Nat) : 0 ≤ attenuation n := by
  unfold attenuation
  by_cases h : n < 16
  · interval_cases n <;> decide
  · rw [List.getD_eq_default _ _ (by simpa using Nat.le_of_not_lt h)]
    norm_num

/-- The table of R57 with its last entry, for every count of the 16 sources. -/
theorem attenuation_table : ∀ n ≤ 16,
    [0, 0, 6, 10, 12, 14, 16, 17, 18, 19, 20, 21, 22, 22, 23, 24, 24][n]? = some (attenuation n) := by
  decide

theorem State.openCount_le (s : State) (z : Zone) : s.openCount z ≤ 16 :=
  List.countP_le_length.trans (by simp [allSources])

/-- A zone at base level −192 silences a placement at level 0 or below, at any count (R7, R56, R58; log 35). -/
theorem gainFactor_silent_zone {level : Int} (h : level ≤ 0) (n : Nat) :
    gainFactor (baseGainOf (-192) level - attenuation n) = 0 := by
  have hatt := attenuation_nonneg n
  have hbase : baseGainOf (-192) level = -192 := by
    unfold baseGainOf clampInt
    omega
  rw [hbase]
  exact if_pos (by omega)

/-- Settles O28: the count by its definition, the table by inspection, the factors by the search that holds them, and the
levels by the steps that find them (R56, R57, R58, R74, R85, R147). -/
theorem levelArithmetic : Obligations.LevelArithmetic := by
  unfold Obligations.LevelArithmetic
  refine ⟨fun s z => ⟨s.openCount_le z, ?_, attenuation_table _ (s.openCount_le z)⟩, fun g => factorOf_spec, fun g => rfl,
    fun level n h => gainFactor_silent_zone h n,
    ⟨fun level => rfl, by simp [fadeWeight], fadeWeight_constantDb_one, fun level p q => fadeWeight_constantDb_spec⟩,
    fun energy => levelOfRatio_spec _ _, fun x => levelOfRatio_spec _ _⟩
  unfold State.openCount
  rw [List.countP_eq_length_filter]
  refine congrArg List.length (List.filter_congr fun src _ => ?_)
  unfold State.countsToward
  congr 1
  · cases s.gate src <;> rfl
  · cases s.feed (src, z) with
    | none => rfl
    | some f => cases hf : f.state <;> simp [hf, FeedState.counted]

end Sys2Proof.Machine
end

section
/-! ## The aging of notches

The advance of a second, table by table (R107): what it leaves of each record and each section, the records taken one by
one, and why an aging step taken beforehand is that record's part of the advance (log 3). -/

namespace Sys2Proof.Machine

/-! ### Tables whose records lie apart -/

/-- The records ascend, each pair at least 2 bands apart (R103). -/
def Spaced (t : List Notch) : Prop := t.Pairwise fun a b => a.band.val + 2 ≤ b.band.val

theorem State.NotchesOk.spaced {s : State} (h : s.NotchesOk) (src : Source) : Spaced (vget s.notches src) := by
  obtain ⟨htables, -⟩ := h
  obtain ⟨-, hspaced, -⟩ := htables src
  exact hspaced

/-- In such a table the record of a band is the one at that band. -/
theorem Spaced.notchAt_eq_some_iff {t : List Notch} (h : Spaced t) {b : Band} {n : Notch} :
    notchAt b t = some n ↔ n ∈ t ∧ n.band = b :=
  ⟨notchAt_some, fun ⟨hn, hb⟩ => hb ▸ notchAt_of_mem h hn⟩

theorem Spaced.band_eq_iff {t : List Notch} (h : Spaced t) {m n : Notch} (hm : m ∈ t) (hn : n ∈ t) :
    m.band = n.band ↔ m = n := by
  refine ⟨fun e => ?_, fun e => by rw [e]⟩
  have hfound := notchAt_of_mem h hm
  rw [e, notchAt_of_mem h hn] at hfound
  exact (Option.some.inj hfound).symm

/-! ### Some records of a table taken -/

/-- A table after some of its records have been taken, each leaving what `left` says. -/
def agedTable (left : Notch → Option Notch) (taken t : List Notch) : List Notch :=
  t.filterMap fun m => if m ∈ taken then left m else some m

/-- A section after its record has been taken (R107, R114). -/
def NotchSection.follow (sec : NotchSection) (n : Notch) : Option Notch → NotchSection
  | none => { sec with outgoing := true, cut := sec.cut.toward 0 2400 }
  | some m => if m.depth = n.depth then sec else { sec with cut := sec.cut.toward m.depth 2400 }

/-- A section after some records of its table have been taken: it follows its own record. -/
def agedSection (left : Notch → Option Notch) (taken : List Notch) (sec : NotchSection) : NotchSection :=
  if sec.outgoing then sec
  else
    match notchAt sec.band taken with
    | none => sec
    | some n => sec.follow n (left n)

/-- The sections of a channel after some records of its table have been taken. -/
def agedSections (left : Notch → Option Notch) (taken : List Notch) (secs : Vector (Option NotchSection) 16) :
    Vector (Option NotchSection) 16 :=
  vgen fun i => (vget secs i).map (agedSection left taken)

theorem NotchSection.follow_band (sec : NotchSection) (n : Notch) (o : Option Notch) : (sec.follow n o).band = sec.band := by
  cases o with
  | none => rfl
  | some m =>
    unfold NotchSection.follow
    dsimp only
    split <;> rfl

theorem NotchSection.follow_same (sec : NotchSection) (n : Notch) : sec.follow n (some n) = sec := if_pos rfl

theorem NotchSection.follow_outgoing (sec : NotchSection) (n : Notch) (o : Option Notch) :
    (sec.follow n o).outgoing = (sec.outgoing || o.isNone) := by
  cases o with
  | none => simp [NotchSection.follow]
  | some m =>
    unfold NotchSection.follow
    dsimp only
    split <;> simp

theorem agedSection_of_outgoing (left : Notch → Option Notch) (taken : List Notch) {sec : NotchSection}
    (h : sec.outgoing = true) : agedSection left taken sec = sec := if_pos h

theorem agedSection_of_none (left : Notch → Option Notch) {taken : List Notch} {sec : NotchSection}
    (h : notchAt sec.band taken = none) : agedSection left taken sec = sec := by
  simp [agedSection, h]

theorem agedSection_of_some (left : Notch → Option Notch) {taken : List Notch} {sec : NotchSection} {n : Notch}
    (ho : sec.outgoing = false) (h : notchAt sec.band taken = some n) :
    agedSection left taken sec = sec.follow n (left n) := by
  simp [agedSection, ho, h]

/-- Taking one record touches the section that serves it. -/
theorem agedSection_singleton (left : Notch → Option Notch) (n : Notch) : agedSection left [n] =
    fun sec => if NotchSection.serves n.band (some sec) then sec.follow n (left n) else sec := by
  funext sec
  cases ho : sec.outgoing
  · by_cases hb : n.band = sec.band
    · rw [agedSection_of_some left ho (n := n) (by simp [notchAt, hb])]
      simp [NotchSection.serves, hb, ho]
    · rw [agedSection_of_none left (by simp [notchAt, hb])]
      have hb' : ¬ sec.band = n.band := fun e => hb e.symm
      simp [NotchSection.serves, hb']
  · rw [agedSection_of_outgoing left _ ho]
    simp [NotchSection.serves, ho]

theorem agedTable_self (left : Notch → Option Notch) (t : List Notch) : agedTable left t t = t.filterMap left :=
  List.filterMap_congr fun _ hm => if_pos hm

theorem agedTable_unchanged {left : Notch → Option Notch} {n : Notch} (t : List Notch) (h : left n = some n) :
    agedTable left [n] t = t := by
  conv_rhs => rw [← List.filterMap_some (l := t)]
  refine List.filterMap_congr fun a _ => ?_
  by_cases e : a = n
  · simp [e, h]
  · simp [e]

section
variable {t : List Notch} (ht : Spaced t) {n : Notch} (hn : n ∈ t) {left : Notch → Option Notch}
include ht hn

theorem agedTable_removed (h : left n = none) : agedTable left [n] t = removeNotch n.band t := by
  unfold agedTable removeNotch
  rw [← List.filterMap_eq_filter]
  refine List.filterMap_congr fun m hm => ?_
  by_cases e : m = n
  · simp [e, h, Option.guard]
  · have hb : ¬ m.band = n.band := fun hb => e ((ht.band_eq_iff hm hn).mp hb)
    simp [e, hb, Option.guard]

theorem agedTable_changed {m : Notch} (h : left n = some m) :
    agedTable left [n] t = changeNotch n.band (fun _ => m) t := by
  unfold agedTable changeNotch
  rw [← List.filterMap_eq_map]
  refine List.filterMap_congr fun a ha => ?_
  by_cases e : a = n
  · simp [e, h]
  · have hb : ¬ a.band = n.band := fun hb => e ((ht.band_eq_iff ha hn).mp hb)
    simp [e, hb]

end

section
variable {left : Notch → Option Notch} {n : Notch} (secs : Vector (Option NotchSection) 16)

theorem agedSections_removed (h : left n = none) : agedSections left [n] secs = retireSection secs n.band := by
  refine vext fun i => ?_
  simp only [agedSections, vget_vgen, vget_retireSection, agedSection_singleton, h, NotchSection.follow]

theorem agedSections_changed {m : Notch} (h : left n = some m) : agedSections left [n] secs =
    if n.depth = m.depth then secs else retuneSection secs n.band m.depth := by
  refine vext fun i => ?_
  by_cases hd : n.depth = m.depth
  · simp [agedSections, agedSection_singleton, h, NotchSection.follow, hd]
  · have hd' : ¬ m.depth = n.depth := fun e => hd e.symm
    simp only [agedSections, vget_vgen, agedSection_singleton, h, NotchSection.follow, hd, hd', if_false,
      vget_retuneSection]

end

/-! ### Records taken in turn -/

section
variable {left : Notch → Option Notch} (hleft : ∀ n m, left n = some m → m.band = n.band)
include hleft

theorem spaced_agedTable {taken t : List Notch} (h : Spaced t) : Spaced (agedTable left taken t) := by
  have hband : ∀ a m, (if a ∈ taken then left a else some a) = some m → m.band = a.band := by
    intro a m e
    split at e
    · exact hleft a m e
    · cases e
      rfl
  refine List.Pairwise.filterMap _ (fun a b hab a' ha b' hb => ?_) h
  rw [hband a a' ha, hband b b' hb]
  exact hab

/-- One record taken before others of other bands is all of them taken. -/
theorem agedTable_cons {n : Notch} {taken t : List Notch} (hn : ∀ m ∈ taken, m.band ≠ n.band) :
    agedTable left taken (agedTable left [n] t) = agedTable left (n :: taken) t := by
  unfold agedTable
  rw [List.filterMap_filterMap]
  refine List.filterMap_congr fun m _ => ?_
  by_cases e : m = n
  · subst e
    cases hl : left m with
    | none => simp
    | some m' =>
      have hout : m' ∉ taken := fun hm => hn m' hm (hleft m m' hl)
      simp [hout]
  · simp [e]

end

theorem agedSection_cons (left : Notch → Option Notch) {n : Notch} {taken : List Notch}
    (hn : ∀ m ∈ taken, m.band ≠ n.band) (sec : NotchSection) :
    agedSection left taken (agedSection left [n] sec) = agedSection left (n :: taken) sec := by
  cases ho : sec.outgoing
  · by_cases hb : n.band = sec.band
    · have hfirst : notchAt sec.band (n :: taken) = some n := by simp [notchAt, hb]
      have hrest : notchAt sec.band taken = none := notchAt_none.mpr fun m hm => hb ▸ hn m hm
      rw [agedSection_of_some left ho hfirst, agedSection_of_some left ho (n := n) (by simp [notchAt, hb]),
        agedSection_of_none left (by rw [NotchSection.follow_band]; exact hrest)]
    · have hskip : notchAt sec.band (n :: taken) = notchAt sec.band taken := by simp [notchAt, hb]
      rw [agedSection_of_none left (taken := [n]) (by simp [notchAt, hb])]
      simp only [agedSection, hskip]
  · rw [agedSection_of_outgoing left [n] ho, agedSection_of_outgoing left _ ho, agedSection_of_outgoing left _ ho]

theorem agedSections_cons (left : Notch → Option Notch) {n : Notch} {taken : List Notch}
    (hn : ∀ m ∈ taken, m.band ≠ n.band) (secs : Vector (Option NotchSection) 16) :
    agedSections left taken (agedSections left [n] secs) = agedSections left (n :: taken) secs := by
  refine vext fun i => ?_
  simp only [agedSections, vget_vgen, Option.map_map]
  congr 1
  funext sec
  exact agedSection_cons left hn sec

theorem agedTable_nil (left : Notch → Option Notch) (t : List Notch) : agedTable left [] t = t := by
  simp [agedTable]

theorem agedSections_nil (left : Notch → Option Notch) (secs : Vector (Option NotchSection) 16) :
    agedSections left [] secs = secs := by
  refine vext fun i => ?_
  have hid : agedSection left [] = id := funext fun sec => agedSection_of_none left rfl
  simp [agedSections, hid]

/-- At another band the step leaves the record found as it was. -/
theorem notchAt_agedTable_other {t : List Notch} (ht : Spaced t) {n : Notch} {left : Notch → Option Notch}
    (hleft : ∀ a m, left a = some m → m.band = a.band)
    {b : Band} (hb : b ≠ n.band) :
    notchAt b (agedTable left [n] t) = notchAt b t := by
  refine Option.ext fun m => ?_
  rw [(spaced_agedTable hleft ht).notchAt_eq_some_iff, ht.notchAt_eq_some_iff]
  refine and_congr_left fun hm => ?_
  unfold agedTable
  rw [List.mem_filterMap]
  constructor
  · rintro ⟨a, ha, e⟩
    split at e
    · next hin =>
      have hab := hleft a m e
      rw [List.mem_singleton.mp hin, hm] at hab
      exact absurd hab hb
    · cases e
      exact ha
  · intro hmem
    have hne : m ≠ n := fun e => hb (by rw [← hm, e])
    exact ⟨m, hmem, by simp [hne]⟩

/-! ### One record at the advance -/

/-- What the advance of a second leaves of a record: one that an AGING_STEP has taken stays (log 3). -/
def State.agedNotch (s : State) (src : Source) (n : Notch) : Option Notch :=
  if (src, n.band) ∈ s.stepped then some n else n.aged s.timing.notchDecay

theorem Notch.aged_band {decay : Nat} {n m : Notch} (h : n.aged decay = some m) : m.band = n.band := by
  unfold Notch.aged at h
  split at h
  · cases h
    rfl
  · split at h
    · cases h
      rfl
    · split at h
      · cases h
      · cases h
        rfl

theorem State.agedNotch_band {s : State} {src : Source} (n m : Notch) (h : s.agedNotch src n = some m) :
    m.band = n.band := by
  unfold State.agedNotch at h
  split at h
  · cases h
    rfl
  · exact Notch.aged_band h

theorem State.setTable_self (s : State) (src : Source) :
    s.setTable src (vget s.notches src) (vget s.sections src) = s := by
  simp [State.setTable, State.setNotches, State.setSections]

theorem State.isAging_iff (s : State) (src : Source) (n : Notch) :
    s.isAging src n = true ↔ n.kind = .dynamic ∧ (src, n.band) ∉ s.stepped := by
  simp [State.isAging]

theorem Notch.stepsNext_iff (n : Notch) (decay : Nat) : n.stepsNext decay = true ↔ decay ≤ n.quietTime + 1 := by
  simp [Notch.stepsNext]

section
variable {s : State} {src : Source} {n : Notch}

/-- A FIXED record, or one whose step has been taken, stays. -/
theorem State.agedNotch_of_not_aging (h : s.isAging src n = false) : s.agedNotch src n = some n := by
  unfold State.agedNotch
  split
  · rfl
  · next hout =>
    have hfixed : n.kind = .fixed := by
      cases hk : n.kind with
      | fixed => rfl
      | dynamic =>
        have := (s.isAging_iff src n).mpr ⟨hk, hout⟩
        rw [h] at this
        cases this
    simp [Notch.aged, hfixed]

/-- A DYNAMIC record that the advance brings to the decay time, or finds there, takes its step. -/
theorem State.agedNotch_of_step (ha : s.isAging src n = true) (hs : n.stepsNext s.timing.notchDecay = true) :
    s.agedNotch src n = if n.depth < 12 then none else some { n with depth := n.depth - 6, quietTime := 0 } := by
  obtain ⟨hk, hout⟩ := (s.isAging_iff src n).mp ha
  have hq := (n.stepsNext_iff _).mp hs
  simp [State.agedNotch, hout, Notch.aged, hk, Nat.not_lt.mpr hq]

/-- Any other DYNAMIC record grows quieter by one. -/
theorem State.agedNotch_of_wait (ha : s.isAging src n = true) (hs : n.stepsNext s.timing.notchDecay = false) :
    s.agedNotch src n = some { n with quietTime := n.quietTime + 1 } := by
  obtain ⟨hk, hout⟩ := (s.isAging_iff src n).mp ha
  have hq : n.quietTime + 1 < s.timing.notchDecay := by
    rw [← Nat.not_le, ← Notch.stepsNext_iff, hs]
    exact Bool.false_ne_true
  simp [State.agedNotch, hout, Notch.aged, hk, hq]

/-- The part with one record of a table taken. -/
def State.takeNotch (s : State) (src : Source) (n : Notch) : State :=
  s.setTable src (agedTable (s.agedNotch src) [n] (vget s.notches src))
    (agedSections (s.agedNotch src) [n] (vget s.sections src))

variable (ht : Spaced (vget s.notches src)) (hn : n ∈ vget s.notches src)
include ht hn

theorem State.rewriteNotch_eq_takeNotch {m : Notch} (h : s.agedNotch src n = some m) :
    s.rewriteNotch src n m = s.takeNotch src n := by
  unfold State.takeNotch State.rewriteNotch
  rw [agedTable_changed ht hn h, agedSections_changed _ h]

theorem State.dropNotch_eq_takeNotch (h : s.agedNotch src n = none) : s.dropNotch src n.band = s.takeNotch src n := by
  unfold State.takeNotch State.dropNotch
  rw [agedTable_removed ht hn h, agedSections_removed _ h]

/-- An aging step takes its record (R107). -/
theorem State.ageStep_eq_takeNotch (ha : s.isAging src n = true) (hs : n.stepsNext s.timing.notchDecay = true) :
    s.ageStep src n = s.takeNotch src n := by
  have hleft := State.agedNotch_of_step ha hs
  unfold State.ageStep
  split
  · next hd => exact State.dropNotch_eq_takeNotch ht hn (hleft.trans (if_pos hd))
  · next hd => exact State.rewriteNotch_eq_takeNotch ht hn (hleft.trans (if_neg hd))

/-- One record at the advance of a second. -/
theorem State.ageNotch_eq : s.ageNotch src n = s.takeNotch src n := by
  unfold State.ageNotch
  cases ha : s.isAging src n
  · have hleft := State.agedNotch_of_not_aging ha
    have hsecs : agedSections (s.agedNotch src) [n] (vget s.sections src) = vget s.sections src := by
      rw [agedSections_changed _ hleft, if_pos rfl]
    unfold State.takeNotch
    rw [agedTable_unchanged _ hleft, hsecs, State.setTable_self]
    rfl
  · cases hs : n.stepsNext s.timing.notchDecay
    · exact State.rewriteNotch_eq_takeNotch ht hn (State.agedNotch_of_wait ha hs)
    · exact State.ageStep_eq_takeNotch ht hn ha hs

end

/-! ### The tables at the advance -/

/-- Records of one table taken in turn at the advance. -/
theorem State.foldl_ageNotch {src : Source} (taken : List Notch) (htaken : Spaced taken) (s : State)
    (ht : Spaced (vget s.notches src)) (hmem : ∀ n ∈ taken, n ∈ vget s.notches src) :
    taken.foldl (fun t n => t.ageNotch src n) s =
      s.setTable src (agedTable (s.agedNotch src) taken (vget s.notches src))
        (agedSections (s.agedNotch src) taken (vget s.sections src)) := by
  induction taken generalizing s with
  | nil => rw [agedTable_nil, agedSections_nil, State.setTable_self, List.foldl_nil]
  | cons n taken ih =>
    obtain ⟨hfirst, hrest⟩ := List.pairwise_cons.mp htaken
    have hband : ∀ m ∈ taken, m.band ≠ n.band := fun m hm e => by
      have := hfirst m hm
      rw [e] at this
      omega
    have hnotches : vget (s.takeNotch src n).notches src = agedTable (s.agedNotch src) [n] (vget s.notches src) :=
      vget_vset_same _ _ _
    have hsections : vget (s.takeNotch src n).sections src =
        agedSections (s.agedNotch src) [n] (vget s.sections src) := vget_vset_same _ _ _
    have hspaced : Spaced (vget (s.takeNotch src n).notches src) := by
      rw [hnotches]
      exact spaced_agedTable State.agedNotch_band ht
    have hkept : ∀ m ∈ taken, m ∈ vget (s.takeNotch src n).notches src := fun m hm => by
      have hne : m ≠ n := fun e => hband m hm (by rw [e])
      rw [hnotches]
      exact List.mem_filterMap.mpr ⟨m, hmem m (.tail _ hm), by simp [hne]⟩
    have hsame : (s.takeNotch src n).agedNotch src = s.agedNotch src := rfl
    rw [List.foldl_cons, State.ageNotch_eq ht (hmem n (.head _)), ih hrest _ hspaced hkept, hnotches, hsections, hsame,
      agedTable_cons State.agedNotch_band hband, agedSections_cons _ hband]
    simp [State.takeNotch, State.setTable, State.setNotches, State.setSections, vset]

/-- The advance of one table (R107). -/
theorem State.ageTable_eq {s : State} {src : Source} (ht : Spaced (vget s.notches src)) : s.ageTable src =
    s.setTable src ((vget s.notches src).filterMap (s.agedNotch src))
      (agedSections (s.agedNotch src) (vget s.notches src) (vget s.sections src)) := by
  unfold State.ageTable
  rw [State.foldl_ageNotch _ ht s ht fun _ h => h, agedTable_self]

/-- The advance of some tables touches those alone. -/
theorem State.foldl_ageTable (sources : List Source) (hn : sources.Nodup) (s : State)
    (ht : ∀ src, Spaced (vget s.notches src)) :
    ∃ N S, sources.foldl State.ageTable s = { s with notches := N, sections := S } ∧ ∀ src,
      vget N src = (if src ∈ sources then (vget s.notches src).filterMap (s.agedNotch src) else vget s.notches src) ∧
      vget S src = (if src ∈ sources then agedSections (s.agedNotch src) (vget s.notches src) (vget s.sections src)
        else vget s.sections src) := by
  induction sources generalizing s with
  | nil => exact ⟨s.notches, s.sections, rfl, by simp⟩
  | cons a rest ih =>
    rw [List.nodup_cons] at hn
    have hnotches (src : Source) : vget (s.ageTable a).notches src =
        if a = src then (vget s.notches a).filterMap (s.agedNotch a) else vget s.notches src := by
      rw [State.ageTable_eq (ht a), State.setTable_notches, vget_vset]
    have hsections (src : Source) : vget (s.ageTable a).sections src =
        if a = src then agedSections (s.agedNotch a) (vget s.notches a) (vget s.sections a)
        else vget s.sections src := by
      rw [State.ageTable_eq (ht a), State.setTable_sections, vget_vset]
    have hsame (src : Source) : (s.ageTable a).agedNotch src = s.agedNotch src := by
      rw [State.ageTable_eq (ht a)]
      rfl
    have hspaced (src : Source) : Spaced (vget (s.ageTable a).notches src) := by
      rw [hnotches]
      split
      · rw [← agedTable_self]
        exact spaced_agedTable State.agedNotch_band (ht a)
      · exact ht src
    obtain ⟨N, S, hNS, hall⟩ := ih hn.2 (s.ageTable a) hspaced
    refine ⟨N, S, ?_, fun src => ?_⟩
    · rw [List.foldl_cons, hNS, State.ageTable_eq (ht a)]
      rfl
    · obtain ⟨hN, hS⟩ := hall src
      rw [hN, hS, hnotches, hsections, hsame]
      by_cases ha : a = src
      · subst ha
        simp [hn.1]
      · have ha' : ¬ src = a := fun e => ha e.symm
        simp [ha, ha']

/-- The part at the end of the advance of a second, by its tables and sections (R107). -/
theorem State.advanceAging_eq {s : State} (hend : s.secondEnded = true) (ht : ∀ src, Spaced (vget s.notches src)) :
    s.advanceAging = { s with
      secondCount := 0
      stepped := []
      notches := vgen fun src => (vget s.notches src).filterMap (s.agedNotch src)
      sections := vgen fun src => agedSections (s.agedNotch src) (vget s.notches src) (vget s.sections src) } := by
  obtain ⟨N, S, hNS, hall⟩ := State.foldl_ageTable allSources nodup_allSources s ht
  have hN : N = vgen fun src => (vget s.notches src).filterMap (s.agedNotch src) :=
    vext fun src => by rw [(hall src).1, vget_vgen, if_pos (mem_allSources src)]
  have hS : S = vgen fun src => agedSections (s.agedNotch src) (vget s.notches src) (vget s.sections src) :=
    vext fun src => by rw [(hall src).2, vget_vgen, if_pos (mem_allSources src)]
  unfold State.advanceAging
  rw [if_pos hend, hNS, hN, hS]

/-! ### An aging step beforehand -/

/-- The part after an AGING_STEP has taken a record (log 3). -/
def State.stepTaken (s : State) (src : Source) (n : Notch) : State :=
  { s.takeNotch src n with stepped := (src, n.band) :: s.stepped }

/-- A source and a band whose aging step is to be taken: a second has ended, and the table's record there takes its
step in its advance (R16, R107). -/
structure State.StepDue (s : State) (src : Source) (n : Notch) : Prop where
  ended : s.secondEnded = true
  mem : n ∈ vget s.notches src
  aging : s.isAging src n = true
  steps : n.stepsNext s.timing.notchDecay = true

section
variable {s : State} {src : Source} {n : Notch}

/-- A marked record is left alone by the advance, and every other record is as before (log 3). -/
theorem State.agedNotch_stepTaken (src' : Source) (m : Notch) : (s.stepTaken src n).agedNotch src' m =
    if src' = src ∧ m.band = n.band then some m else s.agedNotch src' m := by
  unfold State.agedNotch State.stepTaken
  by_cases h : src' = src ∧ m.band = n.band
  · rw [if_pos h]
    simp [h]
  · rw [if_neg h]
    have hmem : ((src', m.band) ∈ (src, n.band) :: s.stepped) ↔ (src', m.band) ∈ s.stepped := by
      simp only [List.mem_cons, Prod.mk.injEq, or_iff_right_iff_imp]
      exact fun e => absurd e h
    simp only [hmem]
    rfl

theorem State.notches_stepTaken (src' : Source) : vget (s.stepTaken src n).notches src' =
    if src = src' then agedTable (s.agedNotch src) [n] (vget s.notches src) else vget s.notches src' :=
  vget_vset _ _ _ _

theorem State.sections_stepTaken (src' : Source) : vget (s.stepTaken src n).sections src' =
    if src = src' then agedSections (s.agedNotch src) [n] (vget s.sections src) else vget s.sections src' :=
  vget_vset _ _ _ _

variable (ht : Spaced (vget s.notches src)) (hn : n ∈ vget s.notches src)
include ht hn

/-- The advance after an aging step leaves the records that the advance alone leaves. -/
theorem State.filterMap_stepTaken : (agedTable (s.agedNotch src) [n] (vget s.notches src)).filterMap
    ((s.stepTaken src n).agedNotch src) = (vget s.notches src).filterMap (s.agedNotch src) := by
  unfold agedTable
  rw [List.filterMap_filterMap]
  refine List.filterMap_congr fun m hm => ?_
  by_cases e : m = n
  · subst e
    cases hl : s.agedNotch src m with
    | none => simp
    | some m' =>
      have hb := State.agedNotch_band m m' hl
      simp [State.agedNotch_stepTaken, hb]
  · have hb : ¬ m.band = n.band := fun hb => e ((ht.band_eq_iff hm hn).mp hb)
    simp [e, State.agedNotch_stepTaken, hb]

/-- The advance after an aging step leaves the section that the advance alone leaves. -/
theorem State.agedSection_stepTaken (sec : NotchSection) :
    agedSection ((s.stepTaken src n).agedNotch src) (agedTable (s.agedNotch src) [n] (vget s.notches src))
      (agedSection (s.agedNotch src) [n] sec) = agedSection (s.agedNotch src) (vget s.notches src) sec := by
  cases ho : sec.outgoing with
  | true => rw [agedSection_of_outgoing _ [n] ho, agedSection_of_outgoing _ _ ho, agedSection_of_outgoing _ _ ho]
  | false =>
    by_cases hb : sec.band = n.band
    · have hown : notchAt sec.band (vget s.notches src) = some n := ht.notchAt_eq_some_iff.mpr ⟨hn, hb.symm⟩
      rw [agedSection_of_some _ ho (n := n) (by simp [notchAt, hb]), agedSection_of_some _ ho hown]
      cases hl : s.agedNotch src n with
      | none => exact agedSection_of_outgoing _ _ (by simp [NotchSection.follow_outgoing])
      | some m =>
        have hm : m.band = n.band := State.agedNotch_band n m hl
        have hleft : m ∈ agedTable (s.agedNotch src) [n] (vget s.notches src) :=
          List.mem_filterMap.mpr ⟨n, hn, by simp [hl]⟩
        have hfound : notchAt (sec.follow n (some m)).band (agedTable (s.agedNotch src) [n] (vget s.notches src)) =
            some m := by
          rw [NotchSection.follow_band, hb, ← hm]
          exact notchAt_of_mem (spaced_agedTable State.agedNotch_band ht) hleft
        rw [agedSection_of_some _ (by simp [NotchSection.follow_outgoing, ho]) hfound, State.agedNotch_stepTaken,
          if_pos ⟨rfl, hm⟩, NotchSection.follow_same]
    · rw [agedSection_of_none _ (taken := [n]) (by simpa [notchAt] using fun e => hb e.symm)]
      have hsame := notchAt_agedTable_other ht (State.agedNotch_band (s := s) (src := src)) hb
      cases hf : notchAt sec.band (vget s.notches src) with
      | none => rw [agedSection_of_none _ (hsame.trans hf), agedSection_of_none _ hf]
      | some m =>
        have hm : ¬ m.band = n.band := fun e => hb ((notchAt_some hf).2.symm.trans e)
        rw [agedSection_of_some _ ho (hsame.trans hf), agedSection_of_some _ ho hf, State.agedNotch_stepTaken,
          if_neg fun h => hm h.2]

end

/-- An aging step taken beforehand is its record's part of the advance (log 3). -/
theorem State.advanceAging_stepTaken {s : State} {src : Source} {n : Notch} (h : s.StepDue src n)
    (ht : ∀ src, Spaced (vget s.notches src)) : (s.stepTaken src n).advanceAging = s.advanceAging := by
  have hspaced (src' : Source) : Spaced (vget (s.stepTaken src n).notches src') := by
    rw [State.notches_stepTaken]
    split
    · exact spaced_agedTable State.agedNotch_band (ht src)
    · exact ht src'
  have hother {src' : Source} (hne : src ≠ src') : (s.stepTaken src n).agedNotch src' = s.agedNotch src' :=
    funext fun m => by rw [State.agedNotch_stepTaken, if_neg fun e => hne e.1.symm]
  have hend : (s.stepTaken src n).secondEnded = true := h.ended
  have hnotches : (vgen fun src' => (vget (s.stepTaken src n).notches src').filterMap
      ((s.stepTaken src n).agedNotch src')) = vgen fun src' => (vget s.notches src').filterMap (s.agedNotch src') := by
    refine vext fun src' => ?_
    rw [vget_vgen, vget_vgen, State.notches_stepTaken]
    by_cases e : src = src'
    · subst e
      rw [if_pos rfl, State.filterMap_stepTaken (ht src) h.mem]
    · rw [if_neg e, hother e]
  have hsections : (vgen fun src' => agedSections ((s.stepTaken src n).agedNotch src')
      (vget (s.stepTaken src n).notches src') (vget (s.stepTaken src n).sections src')) =
      vgen fun src' => agedSections (s.agedNotch src') (vget s.notches src') (vget s.sections src') := by
    refine vext fun src' => ?_
    rw [vget_vgen, vget_vgen, State.notches_stepTaken, State.sections_stepTaken]
    by_cases e : src = src'
    · subst e
      rw [if_pos rfl, if_pos rfl]
      refine vext fun i => ?_
      simp only [agedSections, vget_vgen, Option.map_map]
      congr 1
      funext sec
      exact State.agedSection_stepTaken (ht src) h.mem sec
    · rw [if_neg e, if_neg e, hother e]
  rw [State.advanceAging_eq hend hspaced, State.advanceAging_eq h.ended ht, hnotches, hsections]
  rfl

/-! ### The commands -/

/-- AGING_STEP of a record whose step is due takes it. -/
theorem exec_agingStep_due {s : State} {src : Source} {n : Notch} (h : s.StepDue src n)
    (ht : Spaced (vget s.notches src)) :
    exec (.agingStep src n.band) s = .next { s.ageStep src n with stepped := (src, n.band) :: s.stepped } := by
  simp only [exec, execAgingStep, notchAt_of_mem ht h.mem, h.ended, h.aging, h.steps, Bool.and_self, if_true]

/-- AGING_STEP of a band whose record has no step due changes nothing (log 4). -/
theorem exec_agingStep_still {s : State} {src : Source} {b : Band}
    (h : ∀ n, n.band = b → ¬ s.StepDue src n) : exec (.agingStep src b) s = .next s := by
  simp only [exec, execAgingStep]
  split
  · next n hf =>
    obtain ⟨hmem, hband⟩ := notchAt_some hf
    rw [if_neg]
    intro hall
    simp only [Bool.and_eq_true] at hall
    obtain ⟨⟨hended, haging⟩, hsteps⟩ := hall
    exact h n hband ⟨hended, hmem, haging, hsteps⟩
  · rfl

/-- A section in the words of the statement: the record that serves it is searched for with the mark. -/
theorem agedSection_eq_find (left : Notch → Option Notch) (t : List Notch) (sec : NotchSection) :
    agedSection left t sec =
      match t.find? fun n => n.band == sec.band && !sec.outgoing with
      | none => sec
      | some n => sec.follow n (left n) := by
  cases ho : sec.outgoing
  · simp only [agedSection, notchAt, ho, Bool.not_false, Bool.and_true]
    rfl
  · have hnone : t.find? (fun _ => false) = none := List.find?_eq_none.mpr (by simp)
    simp [agedSection, ho, hnone]

/-- Settles O38: the advance table by table, the aging step by its depth, and the two in turn as the advance alone
(R16, R107, R114). -/
theorem notchesAge : Obligations.NotchesAge := by
  unfold Obligations.NotchesAge
  refine ⟨fun s hok => ⟨fun h => ?_, fun h => ?_, fun hactive hcount => ?_⟩,
    fun s src n hn hok hk hout hq hactive hcount => ?_, fun s src band hok => ⟨fun hstill => ?_, ?_⟩⟩
  · exact congrArg Host.Outcome.next (State.advanceAging_still (.inl h))
  · exact congrArg Host.Outcome.next (State.advanceAging_still (.inr h))
  · have hend := State.secondEnded_iff.mpr ⟨hactive, hcount⟩
    refine ⟨s.advanceAging, rfl, ?_, fun src => ?_⟩
    · rw [State.advanceAging_eq hend hok.spaced]
    · rw [State.advanceAging_eq hend hok.spaced]
      refine ⟨vget_vgen _ src, fun i => ?_⟩
      simp only [vget_vgen, agedSections]
      congr 1
      funext sec
      rw [agedSection_eq_find]
      rfl
  · have hdue : s.StepDue src n := ⟨State.secondEnded_iff.mpr ⟨hactive, hcount⟩, hn, (s.isAging_iff src n).mpr ⟨hk, hout⟩,
      (n.stepsNext_iff _).mpr hq⟩
    rw [exec_agingStep_due hdue (hok.spaced src)]
    refine ⟨fun hd => ?_, fun hd => ?_⟩
    · have hstep : s.ageStep src n = s.dropNotch src n.band := if_pos hd
      rw [hstep]
      rfl
    · have hstep : s.ageStep src n = s.rewriteNotch src n { n with depth := n.depth - 6, quietTime := 0 } :=
        if_neg (Nat.not_lt.mpr hd)
      have hdeeper : ¬ n.depth = n.depth - 6 := by omega
      rw [hstep]
      simp only [State.rewriteNotch, hdeeper, if_false]
      rfl
  · refine exec_agingStep_still fun n hb hdue => ?_
    obtain ⟨hactive, hcount⟩ := State.secondEnded_iff.mp hdue.ended
    obtain ⟨hk, hout⟩ := (s.isAging_iff src n).mp hdue.aging
    rcases hstill with h | h | h
    · exact hactive h
    · omega
    · rcases h n hdue.mem hb with h | h | h
      · rw [hk] at h
        cases h
      · exact hout (hb ▸ h)
      · have := (n.stepsNext_iff _).mp hdue.steps
        omega
  · by_cases hdue : ∃ n, n.band = band ∧ s.StepDue src n
    · obtain ⟨n, rfl, hdue⟩ := hdue
      refine ⟨_, exec_agingStep_due hdue (hok.spaced src), ?_⟩
      rw [State.ageStep_eq_takeNotch (hok.spaced src) hdue.mem hdue.aging hdue.steps]
      exact congrArg Host.Outcome.next (State.advanceAging_stepTaken hdue hok.spaced)
    · exact ⟨s, exec_agingStep_still fun n hb h => hdue ⟨n, hb, h⟩, rfl⟩

end Sys2Proof.Machine
end

section
/-! ## The Placement Table and the Feed Pool: what their conditions read

The conditions on the queue, the feeds and the placements read of a feed its phase alone. `State.pool` holds what they
read, as one value: an operation that leaves it keeps every such condition. -/

namespace Sys2Proof.Machine

/-- A feed in use by the three phases that the queue and the placements tell apart (R22). -/
inductive FeedPhase where
  | waiting
  | sounding
  | leaving

/-- The phase of a feed state (R22). -/
def FeedState.phase : FeedState → FeedPhase
  | .waiting => .waiting
  | .fadingIn _ => .sounding
  | .steady => .sounding
  | .fadingOut _ => .leaving

theorem FeedState.phase_eq_waiting {st : FeedState} : st.phase = .waiting ↔ st = .waiting := by
  cases st <;> simp [FeedState.phase]

theorem FeedState.phase_eq_leaving {st : FeedState} : st.phase = .leaving ↔ st.isFadingOut = true := by
  cases st <;> simp [FeedState.phase, FeedState.isFadingOut]

theorem FeedState.phase_eq_sounding {st : FeedState} :
    st.phase = .sounding ↔ st ≠ .waiting ∧ st.isFadingOut = false := by
  cases st <;> simp [FeedState.phase, FeedState.isFadingOut]

/-- The phase of a feed, if it is in use. -/
def State.phase (s : State) (k : FeedKey) : Option FeedPhase := (s.feed k).map fun f => f.state.phase

/-- What the conditions on placements and feeds read: the building, the placements, the feeds' phases and the queue. -/
structure PoolRecords where
  stations : Vector Station 32
  zones : Vector ZoneRecord 24
  areas : Vector AreaMode 8
  placements : Vector (Option Placement) 16
  phases : List (Option FeedPhase)
  queue : List FeedKey

/-- The pool records of the part. -/
def State.pool (s : State) : PoolRecords where
  stations := s.stations
  zones := s.zones
  areas := s.areas
  placements := s.placements
  phases := allFeeds.map s.phase
  queue := s.queue

/-! ### Reads by phase -/

section
variable {s t : State}

theorem State.phase_congr (h : t.feeds = s.feeds) : t.phase = s.phase := by
  unfold State.phase
  rw [s.feed_congr h]

theorem State.phase_of_pool (e : t.pool = s.pool) : t.phase = s.phase := by
  funext k
  exact List.map_inj_left.mp (congrArg PoolRecords.phases e) k (mem_allFeeds k)

theorem State.inUse_eq_isSome (s : State) (k : FeedKey) : s.inUse k = (s.phase k).isSome := by
  simp [State.inUse, State.phase]

theorem State.isOfferable_iff_phase {k : FeedKey} :
    s.isOfferable k = true ↔ s.phase k = some .waiting ∨ s.phase k = some .sounding := by
  unfold State.isOfferable State.phase
  cases s.feed k with
  | none => simp
  | some f => cases hs : f.state <;> simp [hs, FeedState.isFadingOut, FeedState.phase]

theorem State.isOfferable_iff {k : FeedKey} :
    s.isOfferable k = true ↔ ∃ f, s.feed k = some f ∧ f.state.isFadingOut = false := by
  unfold State.isOfferable
  cases s.feed k <;> simp

theorem State.phase_eq_waiting_iff {k : FeedKey} :
    s.phase k = some .waiting ↔ ∃ f, s.feed k = some f ∧ f.state = .waiting := by
  unfold State.phase
  cases s.feed k <;> simp [FeedState.phase_eq_waiting]

theorem State.isOfferable_congr (h : t.phase = s.phase) : t.isOfferable = s.isOfferable := by
  funext k
  rw [Bool.eq_iff_iff, State.isOfferable_iff_phase, State.isOfferable_iff_phase, h]

theorem State.inUse_congr (h : t.phase = s.phase) : t.inUse = s.inUse := by
  funext k
  rw [State.inUse_eq_isSome, State.inUse_eq_isSome, h]

theorem State.inUse_of_isOfferable {k : FeedKey} (h : s.isOfferable k = true) : s.inUse k = true := by
  rw [State.inUse_eq_isSome]
  rcases State.isOfferable_iff_phase.mp h with e | e <;> simp [e]

theorem State.hasFeeds_iff {src : Source} : s.hasFeeds src = true ↔ ∃ z, s.inUse (src, z) = true := by
  simp [State.hasFeeds]

theorem State.hasFeeds_congr (h : t.inUse = s.inUse) : t.hasFeeds = s.hasFeeds := by
  unfold State.hasFeeds
  rw [h]

theorem State.usedCount_congr (h : t.inUse = s.inUse) : t.usedCount = s.usedCount := by
  unfold State.usedCount
  rw [h]

theorem State.usedCount_mono (h : ∀ k, t.inUse k = true → s.inUse k = true) : t.usedCount ≤ s.usedCount :=
  List.countP_mono_left fun k _ hk => h k hk

theorem State.wants_congr (hst : t.stations = s.stations) (hz : t.zones = s.zones) (ha : t.areas = s.areas)
    {k : FeedKey} (hp : t.placement k.1 = s.placement k.1) : t.wants k = s.wants k := by
  unfold State.wants
  rw [hst, hz, ha, hp]

end

/-! ### The conditions by phase -/

/-- The condition on the queue and the feeds, by phase (R21, R22, R46). -/
structure State.QueueOk (s : State) : Prop where
  nodup : s.queue.Nodup
  live : ∀ k ∈ s.queue, s.isOfferable k = true
  queued : ∀ k, s.phase k = some .waiting → k ∈ s.queue
  owned : ∀ k, s.inUse k = true → (s.placement k.1).isSome = true

theorem State.feedsOk_iff (s : State) : s.FeedsOk ↔ s.QueueOk := by
  have live : (∀ k ∈ s.queue, ∃ f, s.feed k = some f ∧ f.state.isFadingOut = false) ↔
      ∀ k ∈ s.queue, s.isOfferable k = true :=
    forall₂_congr fun k _ => State.isOfferable_iff.symm
  have queued : (∀ k f, s.feed k = some f → f.state = .waiting → k ∈ s.queue) ↔
      ∀ k, s.phase k = some .waiting → k ∈ s.queue := by
    simp only [State.phase_eq_waiting_iff, forall_exists_index, and_imp]
  have owned : (∀ k f, s.feed k = some f → ∃ p, s.placement k.1 = some p) ↔
      ∀ k, s.inUse k = true → (s.placement k.1).isSome = true := by
    simp only [State.inUse, Option.isSome_iff_exists, forall_exists_index]
  exact ⟨fun ⟨h1, h2, h3, h4⟩ => ⟨h1, live.mp h2, queued.mp h3, owned.mp h4⟩,
    fun ⟨h1, h2, h3, h4⟩ => ⟨h1, live.mpr h2, queued.mpr h3, owned.mpr h4⟩⟩

/-- A source whose placement is RETIRING (R18). -/
def State.IsRetiring (s : State) (src : Source) : Prop := ∃ p, s.placement src = some p ∧ p.state = .retiring

/-- The condition on the placements and the feeds (R18, R26, R35), but for the sources of a choice `unfed`, whose
reconciliation is still to come, and of a choice `unswept`, whose removal where they are empty is still to come. -/
structure State.PlacedBut (s : State) (unfed unswept : Source → Prop) : Prop where
  present : ∀ src p, s.placement src = some p → p.state = .active → (vget s.stations p.station).present = true
  fed : ∀ k : FeedKey, ¬ unfed k.1 → s.isPlaced k.1 = true → s.wants k = s.isOfferable k
  leaving : ∀ src, s.IsRetiring src → ∀ z, s.isOfferable (src, z) = false
  held : ∀ src, ¬ unswept src → s.IsRetiring src → s.hasFeeds src = true

/-- No source. -/
def noSource (_ : Source) : Prop := False

theorem State.placementsOk_iff (s : State) :
    s.PlacementsOk ↔ s.QueueOk ∧ s.PlacedBut noSource noSource ∧ s.usedCount ≤ 128 := by
  have fed : (∀ src p z, s.placement src = some p → p.state = .active →
        (s.wants (src, z) = true ↔ ∃ f, s.feed (src, z) = some f ∧ f.state.isFadingOut = false)) ↔
      ∀ k : FeedKey, ¬ noSource k.1 → s.isPlaced k.1 = true → s.wants k = s.isOfferable k := by
    simp only [← State.isOfferable_iff, ← Bool.eq_iff_iff, State.isPlaced_iff, noSource, not_false_eq_true,
      true_imp_iff, forall_exists_index, and_imp, Prod.forall]
    exact ⟨fun h src z p hp ha => h src p z hp ha, fun h src p z hp ha => h src z p hp ha⟩
  have leaving : (∀ src p, s.placement src = some p → p.state = .retiring →
        (∃ z f, s.feed (src, z) = some f) ∧ ∀ z f, s.feed (src, z) = some f → f.state.isFadingOut = true) ↔
      (∀ src, s.IsRetiring src → ∀ z, s.isOfferable (src, z) = false) ∧
        ∀ src, ¬ noSource src → s.IsRetiring src → s.hasFeeds src = true := by
    have hout (k : FeedKey) : (∀ f, s.feed k = some f → f.state.isFadingOut = true) ↔ s.isOfferable k = false := by
      unfold State.isOfferable
      cases s.feed k <;> simp
    simp only [hout, State.hasFeeds_iff, State.inUse, Option.isSome_iff_exists, noSource, not_false_eq_true,
      true_imp_iff, State.IsRetiring, forall_exists_index, and_imp]
    exact ⟨fun h => ⟨fun src p hp hr => (h src p hp hr).2, fun src p hp hr => (h src p hp hr).1⟩,
      fun h src p hp hr => ⟨h.2 src p hp hr, h.1 src p hp hr⟩⟩
  unfold State.PlacementsOk
  rw [State.feedsOk_iff, fed, leaving]
  exact ⟨fun ⟨hq, h1, h2, h3, h4⟩ => ⟨hq, ⟨h1, h2, h3.1, h3.2⟩, h4⟩,
    fun ⟨hq, h, h4⟩ => ⟨hq, h.present, h.fed, ⟨h.leaving, h.held⟩, h4⟩⟩

end Sys2Proof.Machine
end

section
/-! ## Operations that leave the pool records -/

namespace Sys2Proof.Machine

/-- An event keeps the two conditions on the pool. -/
structure KeepsPool (s t : State) : Prop where
  feeds : s.FeedsOk → t.FeedsOk
  placements : s.PlacementsOk → t.PlacementsOk

theorem KeepsPool.trans {s t u : State} (h : KeepsPool s t) (h' : KeepsPool t u) : KeepsPool s u :=
  ⟨h'.feeds ∘ h.feeds, h'.placements ∘ h.placements⟩

theorem KeepsPool.refl (s : State) : KeepsPool s s := ⟨id, id⟩

/-- A fold whose every step keeps the conditions keeps them. -/
theorem KeepsPool.foldl {α : Type} {op : State → α → State} (h : ∀ t x, KeepsPool t (op t x)) (l : List α) (s : State) :
    KeepsPool s (l.foldl op s) :=
  List.foldlRecOn l op (motive := KeepsPool s) (.refl s) fun t ht x _ => ht.trans (h t x)

section
variable {s t : State}

theorem State.wants_of_pool (e : t.pool = s.pool) : t.wants = s.wants :=
  funext fun k => State.wants_congr (congrArg PoolRecords.stations e) (congrArg PoolRecords.zones e)
    (congrArg PoolRecords.areas e) (congrArg (fun r : PoolRecords => vget r.placements k.1) e)

theorem State.placement_of_pool (e : t.pool = s.pool) : t.placement = s.placement :=
  funext fun src => congrArg (fun r : PoolRecords => vget r.placements src) e

theorem State.isPlaced_congr (h : t.placement = s.placement) : t.isPlaced = s.isPlaced := by
  unfold State.isPlaced
  rw [h]

/-- The condition on the queue under other placements, which leave none of the placements in use out. -/
theorem State.QueueOk.congr (h : s.QueueOk) (hq : t.queue = s.queue) (hph : t.phase = s.phase)
    (hpl : ∀ src, (s.placement src).isSome = true → (t.placement src).isSome = true) : t.QueueOk where
  nodup := hq ▸ h.nodup
  live := by rw [hq, State.isOfferable_congr hph]; exact h.live
  queued := by rw [hq, hph]; exact h.queued
  owned := by rw [State.inUse_congr hph]; exact fun k hk => hpl _ (h.owned k hk)

/-- The condition on the placements is a matter of the placements, the presence of stations, the desired sets and the
feeds in use. -/
theorem State.PlacedBut.congr {unfed unswept : Source → Prop} (h : s.PlacedBut unfed unswept)
    (hpl : t.placement = s.placement)
    (hst : ∀ src p, s.placement src = some p → p.state = .active →
      (vget s.stations p.station).present = true → (vget t.stations p.station).present = true)
    (hw : ∀ k : FeedKey, ¬ unfed k.1 → s.isPlaced k.1 = true → t.wants k = s.wants k)
    (hoff : t.isOfferable = s.isOfferable) (huse : t.hasFeeds = s.hasFeeds) : t.PlacedBut unfed unswept where
  present := by
    rw [hpl]
    exact fun src p hp ha => hst src p hp ha (h.present src p hp ha)
  fed := by
    rw [State.isPlaced_congr hpl, hoff]
    exact fun k hk hp => (hw k hk hp).trans (h.fed k hk hp)
  leaving := by
    unfold State.IsRetiring
    rw [hpl, hoff]
    exact h.leaving
  held := by
    unfold State.IsRetiring
    rw [hpl, huse]
    exact h.held

/-- What leaves the pool records keeps the conditions on them. -/
theorem KeepsPool.of_pool (e : t.pool = s.pool) : KeepsPool s t := by
  have hph := State.phase_of_pool e
  have huse := State.inUse_congr hph
  have hpl := State.placement_of_pool e
  have hst : t.stations = s.stations := congrArg PoolRecords.stations e
  have hq (h : s.QueueOk) : t.QueueOk :=
    h.congr (congrArg PoolRecords.queue e) hph fun src hs => by rw [hpl]; exact hs
  refine ⟨fun h => t.feedsOk_iff.mpr (hq (s.feedsOk_iff.mp h)), fun h => ?_⟩
  obtain ⟨hqueue, hplaced, hused⟩ := s.placementsOk_iff.mp h
  exact t.placementsOk_iff.mpr ⟨hq hqueue,
    hplaced.congr hpl (fun _ _ _ _ hp => hst ▸ hp) (fun k _ _ => by rw [State.wants_of_pool e])
      (State.isOfferable_congr hph) (State.hasFeeds_congr huse), (State.usedCount_congr huse).trans_le hused⟩

end

variable (s : State)

/-- A fold whose every step leaves the pool records leaves them. -/
theorem foldl_pool {α : Type} {op : State → α → State} (h : ∀ t x, (op t x).pool = t.pool) (l : List α) :
    (l.foldl op s).pool = s.pool :=
  List.foldlRecOn l op (motive := fun t => t.pool = s.pool) rfl fun t ht x _ => (h t x).trans ht

/-- Feeds that change within their phases leave the pool records. -/
theorem State.pool_withFeeds (F : Vector (Vector (Option Feed) 24) 16)
    (h : ∀ k, ({ s with feeds := F } : State).phase k = s.phase k) : ({ s with feeds := F } : State).pool = s.pool := by
  have hph : ({ s with feeds := F } : State).phase = s.phase := funext h
  unfold State.pool
  rw [hph]

theorem State.pool_setFeed {k : FeedKey} {f g : Feed} (hf : s.feed k = some f) (h : g.state.phase = f.state.phase) :
    (s.setFeed k (some g)).pool = s.pool := by
  refine s.pool_withFeeds _ fun j => ?_
  show ((s.setFeed k (some g)).feed j).map _ = (s.feed j).map _
  rw [State.feed_setFeed]
  split
  · next e => simp [← e, hf, h]
  · rfl

/-! ### Gates and gains -/

@[simp] theorem State.pool_refreshGains : s.refreshGains.pool = s.pool := by
  refine s.pool_withFeeds _ fun k => ?_
  show (s.refreshGains.feed k).map _ = (s.feed k).map _
  rw [State.feed_refreshGains]
  cases s.feed k <;> simp [Feed.state_smoothed]

@[simp] theorem State.pool_closeEvent (before : State) : (before.closeEvent s).pool = s.pool := by
  unfold State.closeEvent
  dsimp only
  split
  · exact s.pool_refreshGains
  · exact s.pool_refreshGains

@[simp] theorem State.pool_setGate (src : Source) (g : Gate) : (s.setGate src g).pool = s.pool := by
  rw [State.setGate_eq]
  rfl

@[simp] theorem State.pool_takeUpDrive (src : Source) : (s.takeUpDrive src).pool = s.pool := s.pool_setGate src _

@[simp] theorem State.pool_wake : s.wake.pool = s.pool := by
  unfold State.wake
  dsimp only
  split
  · rfl
  · rfl
  · rw [State.pool_closeEvent, foldl_pool _ State.pool_takeUpDrive]
    rfl

@[simp] theorem pool_setGateModeOp (src : Source) (m : GateMode) : (setGateModeOp src m s).2.pool = s.pool := by
  unfold setGateModeOp
  dsimp only
  split
  · rfl
  · split
    · rw [State.pool_closeEvent, State.pool_takeUpDrive]
      rfl
    · rfl

@[simp] theorem State.pool_evaluateBlock : s.evaluateBlock.pool = s.pool := by
  unfold State.evaluateBlock
  split
  · rw [State.pool_closeEvent]
    obtain ⟨C, D, e, -⟩ := s.foldl_evaluateChannel
    rw [e]
    rfl
  · rfl

@[simp] theorem State.pool_expireHold (src : Source) : (s.expireHold src).pool = s.pool := by
  unfold State.expireHold
  dsimp only
  split
  · rw [State.pool_closeEvent, State.pool_setGate]
    rfl
  · rfl

@[simp] theorem State.pool_completeOpening (src : Source) : (s.completeOpening src).pool = s.pool := by
  unfold State.completeOpening
  split
  · split
    · simp
    · rfl
  · rfl

@[simp] theorem State.pool_completeClosing (src : Source) : (s.completeClosing src).pool = s.pool := by
  unfold State.completeClosing
  split
  · split
    · simp
    · rfl
  · rfl

@[simp] theorem State.pool_completeTrim (src : Source) : (s.completeTrim src).pool = s.pool := by
  unfold State.completeTrim
  dsimp only
  split <;> rfl

@[simp] theorem pool_setSourceOp (src : Source) (r : SourceRecord) : (setSourceOp src r s).pool = s.pool := by
  unfold setSourceOp
  dsimp only
  split <;> rfl

/-! ### Glides, fades and gains within a phase -/

@[simp] theorem State.pool_completeGlide (k : FeedKey) : (s.completeGlide k).pool = s.pool := by
  unfold State.completeGlide
  split
  · next f hf =>
    split
    · rw [State.pool_closeEvent]
      refine s.pool_setFeed hf ?_
      unfold Feed.glideEnded
      split <;> rfl
    · rfl
  · rfl

@[simp] theorem State.pool_completeGain (k : FeedKey) : (s.completeGain k).pool = s.pool := by
  unfold State.completeGain
  split
  · next f hf =>
    split
    · exact s.pool_setFeed hf rfl
    · rfl
  · rfl

@[simp] theorem State.pool_completeFadeIn (k : FeedKey) : (s.completeFadeIn k).pool = s.pool := by
  unfold State.completeFadeIn
  split
  · next f hf =>
    split
    · next r hr =>
      split
      · rw [State.pool_closeEvent]
        refine s.pool_setFeed hf ?_
        rw [hr]
        rfl
      · rfl
    · rfl
  · rfl

@[simp] theorem State.pool_advanceFrame : s.advanceFrame.pool = s.pool := by
  refine s.pool_withFeeds s.advanceFrame.feeds fun k => ?_
  have hfeed : s.advanceFrame.feed k = (s.feed k).map Feed.advance := by simp [State.feed, State.advanceFrame]
  show (s.advanceFrame.feed k).map _ = (s.feed k).map _
  rw [hfeed, Option.map_map]
  congr 1
  funext f
  cases hs : f.state <;> simp [Feed.advance, hs, FeedState.phase]

theorem State.pool_frame (input : Vector Sample 16) : (s.frame input).pool = s.pool := by
  obtain ⟨portA, portB, e⟩ := s.frame_eq input
  rw [e]
  exact s.pool_advanceFrame

/-! ### Detectors, notches, meters, the clock and Service Control -/

theorem State.pool_of_held {t : State} (e : t.held = s.held) (hq : t.queue = s.queue) : t.pool = s.pool := by
  have hph : t.phase = s.phase := State.phase_congr (congrArg Held.feeds e)
  obtain ⟨hst, hz, ha, -, -, -, hp, -⟩ := Held.mk.inj e
  change t.stations = s.stations at hst
  change t.zones = s.zones at hz
  change t.areas = s.areas at ha
  change t.placements = s.placements at hp
  unfold State.pool
  rw [hst, hz, ha, hp, hph, hq]

/-- A fold whose every step leaves the queue leaves it. -/
theorem foldl_queue {α : Type} {op : State → α → State} (h : ∀ t x, (op t x).queue = t.queue) (l : List α) :
    (l.foldl op s).queue = s.queue :=
  List.foldlRecOn l op (motive := fun t => t.queue = s.queue) rfl fun t ht x _ => (h t x).trans ht

theorem State.queue_afterCause : s.afterCause.queue = s.queue := by
  unfold State.afterCause
  split <;> rfl

theorem State.queue_placeNotch (src : Source) (n : Notch) : (s.placeNotch src n).queue = s.queue := by
  unfold State.placeNotch
  dsimp only
  split
  · rfl
  · split <;> rfl

theorem State.queue_handOver (src : Source) (b : Band) : (s.handOver src b).queue = s.queue := by
  unfold State.handOver State.handleCandidate
  split
  · rfl
  · split
    · rfl
    · rw [State.queue_placeNotch]
      rfl

theorem State.queue_endWindowOf (src : Source) : (s.endWindowOf src).queue = s.queue := by
  unfold State.endWindowOf
  dsimp only
  split
  · split
    · split
      · rw [State.queue_handOver]
        rfl
      · rfl
    · rfl
  · rfl

theorem State.queue_endWindow : s.endWindow.queue = s.queue := by
  unfold State.endWindow
  split
  · have key := foldl_queue s State.queue_endWindowOf allSources
    generalize allSources.foldl State.endWindowOf s = t at key ⊢
    exact key
  · rfl

theorem State.queue_ageStep (src : Source) (n : Notch) : (s.ageStep src n).queue = s.queue := by
  unfold State.ageStep
  split <;> rfl

theorem State.queue_ageTable (src : Source) : (s.ageTable src).queue = s.queue := by
  refine foldl_queue s (fun t n => ?_) _
  unfold State.ageNotch
  split
  · split
    · exact t.queue_ageStep src n
    · rfl
  · rfl

theorem State.queue_advanceAging : s.advanceAging.queue = s.queue := by
  unfold State.advanceAging
  split
  · have key := foldl_queue s State.queue_ageTable allSources
    generalize allSources.foldl State.ageTable s = t at key ⊢
    exact key
  · rfl

theorem State.queue_completeSection (src : Source) (i : SectionSlot) : (s.completeSection src i).queue = s.queue := by
  unfold State.completeSection
  dsimp only
  split
  · split <;> rfl
  · rfl

theorem State.queue_beginStandby : s.beginStandby.queue = s.queue := by
  unfold State.beginStandby
  split <;> rfl

theorem State.queue_completeServiceRamp : s.completeServiceRamp.queue = s.queue := by
  unfold State.completeServiceRamp
  split <;> rfl

theorem State.queue_changeClock (target : ClockState) (gain : Rat) : (s.changeClock target gain).queue = s.queue := by
  unfold State.changeClock
  dsimp only
  split <;> rfl

theorem State.queue_switchChange : s.switchChange.queue = s.queue := by
  unfold State.switchChange
  split
  · split
    · rfl
    · exact s.queue_changeClock _ _
  · rfl

theorem State.queue_switchComplete : s.switchComplete.queue = s.queue := by
  unfold State.switchComplete
  split <;> rfl

theorem State.queue_startLock : s.startLock.queue = s.queue := by
  unfold State.startLock
  split <;> rfl

theorem State.queue_lockChange : s.lockChange.queue = s.queue := by
  unfold State.lockChange
  split
  · exact s.queue_changeClock _ _
  · rfl

theorem State.queue_loseClock : s.loseClock.queue = s.queue := by
  unfold State.loseClock
  split
  · split
    · exact s.queue_changeClock _ _
    · rfl
  · rfl

theorem State.queue_arrival (interval : Rat) : (s.arrival interval).queue = s.queue := by
  unfold State.arrival
  dsimp only
  split
  · rfl
  · split <;> rfl
  · split
    · rfl
    · split
      · rfl
      · split
        · exact s.queue_lockChange
        · split
          · exact State.queue_startLock _
          · rfl

theorem State.queue_missFrame : s.missFrame.queue = s.queue := by
  unfold State.missFrame
  dsimp only
  split
  · rfl
  · split <;> rfl
  · split
    · exact State.queue_loseClock _
    · rfl

@[simp] theorem State.pool_completeMute (z : Zone) : (s.completeMute z).pool = s.pool := by
  unfold State.completeMute
  dsimp only
  split <;> rfl

@[simp] theorem State.pool_recordAction (l : Line) (result : ResultCode) : (s.recordAction l result).pool = s.pool := by
  unfold State.recordAction
  dsimp only
  split <;> rfl

/-! ### Requests and events that write no held record -/

section
variable {s}

/-- The rise of chip select leaves the queue as the owning rule leaves it. -/
theorem onRise_queue {act : State → Reply} (received : List Byte) (hact : (act s).2.2.queue = s.queue) :
    Leaves (fun t => t.queue = s.queue) (onRise received s act) := by
  unfold onRise
  dsimp only
  split
  · split
    · exact leaves_next.mpr rfl
    · exact leaves_next.mpr hact
  · exact leaves_next.mpr rfl

theorem onRequest_queue {i : Instr} {act : State → Reply} (hact : (act s).2.2.queue = s.queue) :
    Leaves (fun t => t.queue = s.queue) (onRequest i s act) :=
  onRise_queue _ hact

/-- The commands that write no held record leave the derivation queue too. -/
theorem exec_queue {i : Instr} (hw : writesHeld i = false) : Leaves (fun t => t.queue = s.queue) (exec i s) := by
  cases i with dsimp only [exec]
  | nop | identify | ackEvents _ | setEventMask _ | getClock | getAlignment | getTiming | listLimited | getPool
  | getMeters => exact onRequest_queue rfl
  | getCause => exact onRequest_queue s.queue_afterCause
  | standby => exact onRequest_queue s.queue_beginStandby
  | setClock _ | getZone _ | getArea _ | findAtStation _ | getSource _ | listNotches _ | clearDynamic _ =>
    refine onRequest_queue ?_
    split <;> rfl
  | getStation _ | getPlacement _ | getFeed _ _ | editNotch _ _ _ _ | retireNotch _ _ =>
    refine onRequest_queue ?_
    split
    · split <;> rfl
    · rfl
  | addNotch source band depth =>
    refine onRequest_queue ?_
    split
    · split
      · rfl
      · split
        · rfl
        · exact State.queue_placeNotch _ _ _
    · rfl
  | restart | transactionStart =>
    refine leaves_next.mpr ?_
    split <;> rfl
  | resetPin =>
    refine leaves_next.mpr ?_
    dsimp only
    split <;> rfl
  | frameRejected received =>
    unfold execFrameRejected
    split
    · exact onRise_queue received rfl
    · exact leaves_next.mpr rfl
  | windowEnd => exact leaves_next.mpr s.queue_endWindow
  | ringCandidate source band =>
    refine leaves_next.mpr ?_
    split
    · exact s.queue_handOver source band
    · rfl
  | agingAdvance => exact leaves_next.mpr s.queue_advanceAging
  | agingStep source band =>
    refine leaves_next.mpr ?_
    split
    · split
      · exact s.queue_ageStep source _
      · rfl
    · rfl
  | sectionMovementComplete source slot => exact leaves_next.mpr (s.queue_completeSection source slot)
  | frameSyncArrival interval => exact leaves_next.mpr (s.queue_arrival interval)
  | missedFrame => exact leaves_next.mpr s.queue_missFrame
  | presenceCountFull => exact leaves_next.mpr s.queue_startLock
  | lockChange => exact leaves_next.mpr s.queue_lockChange
  | clockLoss => exact leaves_next.mpr s.queue_loseClock
  | switchChange => exact leaves_next.mpr s.queue_switchChange
  | switchComplete => exact leaves_next.mpr s.queue_switchComplete
  | serviceRampComplete => exact leaves_next.mpr s.queue_completeServiceRamp
  | _ => cases hw

end

end Sys2Proof.Machine
end

section
/-! ## Operations that change the pool records -/

namespace Sys2Proof.Machine

/-- The two conditions kept, from the conditions by phase. -/
theorem KeepsPool.of_phases {s t : State} (hq : s.QueueOk → t.QueueOk)
    (hp : s.QueueOk → s.PlacedBut noSource noSource → s.usedCount ≤ 128 →
      t.PlacedBut noSource noSource ∧ t.usedCount ≤ 128) : KeepsPool s t := by
  refine ⟨fun h => t.feedsOk_iff.mpr (hq (s.feedsOk_iff.mp h)), fun h => ?_⟩
  obtain ⟨hqueue, hplaced, hused⟩ := s.placementsOk_iff.mp h
  exact t.placementsOk_iff.mpr ⟨hq hqueue, hp hqueue hplaced hused⟩

/-- What an event keeps on a part with the same pool records. -/
theorem KeepsPool.congr_left {s t u : State} (h : KeepsPool t u) (e : t.pool = s.pool) : KeepsPool s u :=
  (KeepsPool.of_pool e).trans h

theorem State.PlacedBut.mono {s : State} {unfed unfed' unswept unswept' : Source → Prop} (h : s.PlacedBut unfed unswept)
    (hf : ∀ src, unfed src → unfed' src) (hs : ∀ src, unswept src → unswept' src) : s.PlacedBut unfed' unswept' where
  present := h.present
  fed k hk := h.fed k fun hu => hk (hf _ hu)
  leaving := h.leaving
  held src hk := h.held src fun hu => hk (hs _ hu)

/-! ### Offers -/

theorem mem_joinQueue {queue offers : List FeedKey} {k : FeedKey} :
    k ∈ joinQueue queue offers ↔ k ∈ queue ∨ k ∈ offers := by
  simp only [joinQueue, List.mem_append, List.mem_filter, List.contains_eq_mem, Bool.not_eq_true',
    decide_eq_false_iff_not]
  tauto

theorem nodup_joinQueue {queue offers : List FeedKey} (hq : queue.Nodup) (ho : offers.Nodup) :
    (joinQueue queue offers).Nodup := by
  refine hq.append (ho.filter _) fun k hk hk' => ?_
  simp [List.mem_filter, hk] at hk'

section
variable {s : State}

theorem State.QueueOk.used (h : s.QueueOk) : s.QueueUsed := fun k hk => State.isOfferable_iff.mp (h.live k hk)

/-- Offers keep the conditions: they queue feeds that are in use and not FADING_OUT. -/
theorem KeepsPool.offerAll (s : State) {keys : List FeedKey} (hk : keys.Nodup) : KeepsPool s (s.offerAll keys) := by
  rw [s.offerAll_eq keys hk]
  refine .of_phases (fun h => ?_) fun _ h hused => ⟨?_, hused⟩
  · refine ⟨nodup_joinQueue h.nodup (hk.filter _), fun k hm => ?_, fun k hw => mem_joinQueue.mpr (.inl (h.queued k hw)),
      h.owned⟩
    rcases mem_joinQueue.mp hm with hm | hm
    · exact h.live k hm
    · exact (List.mem_filter.mp hm).2
  · exact h.congr rfl (fun _ _ _ _ hp => hp) (fun _ _ _ => rfl) rfl rfl

/-! ### Writes of the building -/

/-- A write of the building that leaves the station of every ACTIVE placement present and its desired set as it was. -/
theorem KeepsPool.of_building {t : State} (hf : t.feeds = s.feeds) (hq : t.queue = s.queue)
    (hp : t.placements = s.placements)
    (hst : ∀ src p, s.placement src = some p → p.state = .active → (vget s.stations p.station).present = true →
      (vget t.stations p.station).present = true ∧ ∀ z, t.wants (src, z) = s.wants (src, z)) : KeepsPool s t := by
  have hph := State.phase_congr hf
  have hpl : t.placement = s.placement := funext fun src => congrArg (fun v => vget v src) hp
  refine .of_phases (fun h => h.congr hq hph fun src => by rw [hpl]; exact id) fun _ h hused => ⟨?_, ?_⟩
  · refine h.congr hpl (fun src p hs ha hpr => (hst src p hs ha hpr).1) (fun k _ hk => ?_) (State.isOfferable_congr hph)
      (State.hasFeeds_congr (State.inUse_congr hph))
    obtain ⟨p, hs, ha⟩ := (s.isPlaced_iff k.1).mp hk
    exact (hst k.1 p hs ha (h.present k.1 p hs ha)).2 k.2
  · exact (State.usedCount_congr (State.inUse_congr hph)).trans_le hused

/-- The desired set of a placement at a station that is not written, or whose reach is left. -/
theorem State.wants_writeStation {st : StationId} {r : Station} {src : Source} {p : Placement}
    (hp : s.placement src = some p) (h : st = p.station → r.reach = (vget s.stations st).reach) (z : Zone) :
    (s.writeStation st r).wants (src, z) = s.wants (src, z) := by
  have hreach : (vget (vset s.stations st r) p.station).reach = (vget s.stations p.station).reach := by
    rw [vget_vset]
    split
    · next e => rw [h e, e]
    · rfl
  simp only [State.wants, State.placement_writeStation, hp, State.writeStation_stations, State.writeStation_zones,
    State.writeStation_areas, hreach]

/-- A station written where it is absent, where no ACTIVE placement names it, or with its presence and reach left. -/
theorem KeepsPool.writeStation {st : StationId} {r : Station}
    (h : ∀ src p, s.placement src = some p → p.state = .active → (vget s.stations p.station).present = true →
      st = p.station → r.present = true ∧ r.reach = (vget s.stations st).reach) :
    KeepsPool s (s.writeStation st r) := by
  refine .of_building rfl rfl rfl fun src p hp ha hpr => ⟨?_, s.wants_writeStation hp fun e => (h src p hp ha hpr e).2⟩
  show (vget (vset s.stations st r) p.station).present = true
  rw [vget_vset]
  split
  · next e => exact (h src p hp ha hpr e).1
  · exact hpr

/-- A zone written within its area. -/
theorem KeepsPool.writeZone {z : Zone} {r : ZoneRecord} (h : (vget s.zones z).area = r.area) :
    KeepsPool s (s.writeZone z r) := by
  refine .of_building rfl rfl rfl fun src p hp _ hpr => ⟨hpr, fun z' => ?_⟩
  have harea : (vget (vset s.zones z r) z').area = (vget s.zones z').area := by
    rw [vget_vset]
    split
    · next e => rw [← h, e]
    · rfl
  simp only [State.wants, State.placement_writeZone, State.writeZone_stations, State.writeZone_zones,
    State.writeZone_areas, harea]

/-! ### Placements written -/

/-- A placement written over any that the source has. -/
theorem State.QueueOk.setPlacement (h : s.QueueOk) (src : Source) (p : Placement) :
    (s.setPlacement src (some p)).QueueOk := by
  refine h.congr rfl rfl fun x hx => ?_
  rw [State.placement_setPlacement]
  split
  · rfl
  · exact hx

/-- An ACTIVE placement written at a present station: its reconciliation is to come. -/
theorem State.PlacedBut.setActive (h : s.PlacedBut noSource noSource) (src : Source) {p : Placement}
    (ha : p.state = .active) (hst : (vget s.stations p.station).present = true) :
    (s.setPlacement src (some p)).PlacedBut (· = src) noSource := by
  have hother {x : Source} (hx : x ≠ src) : (s.setPlacement src (some p)).placement x = s.placement x := by
    rw [State.placement_setPlacement, if_neg hx.symm]
  have hretiring {x : Source} (hx : (s.setPlacement src (some p)).IsRetiring x) : s.IsRetiring x := by
    obtain ⟨q, hq, hr⟩ := hx
    rw [State.placement_setPlacement] at hq
    split at hq
    · cases hq
      rw [ha] at hr
      cases hr
    · exact ⟨q, hq, hr⟩
  refine ⟨fun x q hq hqa => ?_, fun k hk hp => ?_, fun x hx => h.leaving x (hretiring hx),
    fun x _ hx => h.held x id (hretiring hx)⟩
  · rw [State.placement_setPlacement] at hq
    split at hq
    · cases hq
      exact hst
    · exact h.present x q hq hqa
  · have hp' : s.isPlaced k.1 = true := by
      rw [State.isPlaced_iff] at hp ⊢
      rwa [hother hk] at hp
    have hw : (s.setPlacement src (some p)).wants k = s.wants k :=
      State.wants_congr (s := s) (t := s.setPlacement src (some p)) rfl rfl rfl (hother hk)
    exact hw.trans (h.fed k id hp')

/-! ### Reconciliation -/

theorem State.contains_activeAmong (s : State) (chosen : Source → Bool) (src : Source) :
    (s.activeAmong chosen).contains src = (chosen src && s.isPlaced src) := by
  rw [Bool.eq_iff_iff]
  simp [State.activeAmong]

theorem State.mem_reconciledQueue {chosen : Source → Bool} {k : FeedKey} : k ∈ s.reconciledQueue chosen ↔
    (k ∈ s.queue ∧ ((chosen k.1 && s.isPlaced k.1) = true → s.wants k = true)) ∨
      ((chosen k.1 && s.isPlaced k.1) = true ∧ s.wants k = true) := by
  have hwanted : k ∈ ((s.activeAmong chosen).flatMap fun src => zonesOf src fun z => s.wants (src, z)) ↔
      (chosen k.1 && s.isPlaced k.1) = true ∧ s.wants k = true := by
    obtain ⟨src, z⟩ := k
    simp [State.activeAmong, zonesOf]
  rw [State.reconciledQueue, mem_joinQueue, hwanted, List.mem_filter, State.contains_activeAmong]
  refine or_congr_left (and_congr_right fun _ => ?_)
  cases chosen k.1 && s.isPlaced k.1 <;> simp

theorem State.nodup_reconciledQueue (h : s.queue.Nodup) (chosen : Source → Bool) :
    (s.reconciledQueue chosen).Nodup := by
  refine nodup_joinQueue (h.filter _) ?_
  rw [List.nodup_flatMap]
  refine ⟨fun src _ => (nodup_allZones.filter _).map fun a b e => (Prod.mk.inj e).2, ?_⟩
  refine (nodup_allSources.filter _).pairwise_of_forall_ne fun a _ b _ hab => ?_
  simp only [Function.onFun, zonesOf, List.disjoint_left, List.mem_map, not_exists, not_and]
  rintro _ ⟨z, -, rfl⟩ z' - e
  exact hab (Prod.mk.inj e).1.symm

/-- What a drop leaves of a feed is FADING_OUT (R24). -/
theorem State.isFadingOut_of_dropped {f g : Feed} (h : s.droppedFeed f = some g) : g.state.isFadingOut = true := by
  unfold State.droppedFeed at h
  split at h
  · cases h
  · next hs =>
    cases h
    rw [hs]
    rfl
  · split at h
    · cases h
    · cases h
      rfl
  · split at h
    · cases h
    · cases h
      rfl

/-- What reconciliation leaves for a zone that is not wanted is FADING_OUT, and was in use (R24, R26). -/
theorem State.reconciledFeed_unwanted {k : FeedKey} (hw : s.wants k = false) {g : Feed}
    (h : s.reconciledFeed k = some g) : s.inUse k = true ∧ g.state.isFadingOut = true := by
  unfold State.reconciledFeed at h
  rw [hw] at h
  unfold State.inUse
  cases hf : s.feed k with
  | none =>
    rw [hf] at h
    cases h
  | some f =>
    rw [hf] at h
    exact ⟨rfl, s.isFadingOut_of_dropped h⟩

/-- After a reconciliation the chosen ACTIVE placements feed the wanted zones (R26). -/
theorem State.isOfferable_reconcileMany (hq : s.QueueUsed) (chosen : Source → Bool) (k : FeedKey) :
    (s.reconcileMany chosen).isOfferable k =
      if chosen k.1 && s.isPlaced k.1 then s.wants k else s.isOfferable k := by
  have hfeed := (s.reconcileMany_spec chosen hq).2 k
  rw [State.contains_activeAmong] at hfeed
  split
  · next hc =>
    rw [if_pos hc] at hfeed
    rw [State.isOfferable, hfeed]
    cases hw : s.wants k with
    | true =>
      obtain ⟨f, hf, hout⟩ := s.reconciledFeed_of_wants hw
      simp [hf, hout]
    | false =>
      cases hf : s.reconciledFeed k with
      | none => rfl
      | some f => simp [(s.reconciledFeed_unwanted hw hf).2]
  · next hc =>
    rw [if_neg hc] at hfeed
    rw [State.isOfferable, hfeed, State.isOfferable]

/-- A reconciliation leaves in use what was in use or a new record for a wanted zone (R23, R26). -/
theorem State.inUse_reconcileMany (hq : s.QueueUsed) {chosen : Source → Bool} {k : FeedKey}
    (h : (s.reconcileMany chosen).inUse k = true) :
    s.inUse k = true ∨ (chosen k.1 && s.wants k && (s.feed k).isNone) = true := by
  have hfeed := (s.reconcileMany_spec chosen hq).2 k
  rw [State.contains_activeAmong] at hfeed
  rw [State.inUse, hfeed] at h
  split at h
  · next hc =>
    cases hf : s.feed k with
    | some f => exact .inl (by simp [State.inUse, hf])
    | none =>
      cases hw : s.wants k with
      | true => exact .inr (by simp [(Bool.and_eq_true _ _ ▸ hc).1])
      | false =>
        obtain ⟨g, hg⟩ := Option.isSome_iff_exists.mp h
        exact .inl (s.reconciledFeed_unwanted hw hg).1
  · exact .inl h

theorem State.QueueOk.reconcileMany (h : s.QueueOk) (chosen : Source → Bool) : (s.reconcileMany chosen).QueueOk := by
  obtain ⟨⟨F, hF⟩, hfeed⟩ := s.reconcileMany_spec chosen h.used
  have hqueue : (s.reconcileMany chosen).queue = s.reconciledQueue chosen := by rw [hF]
  have hplacement : (s.reconcileMany chosen).placement = s.placement := by rw [hF]; rfl
  refine ⟨by rw [hqueue]; exact State.nodup_reconciledQueue h.nodup chosen, fun k hk => ?_, fun k hk => ?_,
    fun k hk => ?_⟩
  · rw [hqueue, State.mem_reconciledQueue] at hk
    rw [State.isOfferable_reconcileMany h.used]
    split
    · next hc => exact hk.elim (fun hk => hk.2 hc) fun hk => hk.2
    · next hc => exact h.live k (hk.resolve_right fun hk => hc hk.1).1
  · rw [hqueue, State.mem_reconciledQueue]
    have hlive := State.isOfferable_iff_phase.mpr (.inl hk)
    rw [State.isOfferable_reconcileMany h.used] at hlive
    split at hlive
    · next hc => exact .inr ⟨hc, hlive⟩
    · next hc =>
      refine .inl ⟨h.queued k ?_, fun hc' => absurd hc' hc⟩
      rw [← hk, State.phase, State.phase, hfeed, State.contains_activeAmong, if_neg hc]
  · rw [hplacement]
    rcases State.inUse_reconcileMany h.used hk with hk | hk
    · exact h.owned k hk
    · simp only [Bool.and_eq_true] at hk
      obtain ⟨p, hp, -⟩ := (s.isPlaced_iff k.1).mp (s.placed_of_wants hk.1.2)
      simp [hp]

/-- The sources whose reconciliation was to come are reconciled. -/
theorem State.PlacedBut.reconcileMany (hq : s.QueueOk) {unfed unswept : Source → Prop} (h : s.PlacedBut unfed unswept)
    {chosen : Source → Bool} (hc : ∀ src, unfed src → chosen src = true) :
    (s.reconcileMany chosen).PlacedBut noSource unswept := by
  obtain ⟨⟨F, hF⟩, hfeed⟩ := s.reconcileMany_spec chosen hq.used
  have hplacement : (s.reconcileMany chosen).placement = s.placement := by rw [hF]; rfl
  have hwants : (s.reconcileMany chosen).wants = s.wants := by rw [hF]; rfl
  have hstations : (s.reconcileMany chosen).stations = s.stations := by rw [hF]
  have hunplaced {src : Source} (hr : s.IsRetiring src) : s.isPlaced src = false := by
    obtain ⟨p, hp, hr⟩ := hr
    simp [State.isPlaced, hp, hr]
  refine ⟨?_, fun k _ hk => ?_, fun src hr z => ?_, fun src hs hr => ?_⟩
  · rw [hplacement, hstations]
    exact h.present
  · rw [State.isPlaced_congr hplacement] at hk
    rw [hwants, State.isOfferable_reconcileMany hq.used, hk, Bool.and_true]
    split
    · rfl
    · next hn => exact h.fed k (fun hu => hn (hc _ hu)) hk
  · have hr' : s.IsRetiring src := by rwa [State.IsRetiring, hplacement] at hr
    rw [State.isOfferable_reconcileMany hq.used]
    simpa [hunplaced hr'] using h.leaving src hr' z
  · have hr' : s.IsRetiring src := by rwa [State.IsRetiring, hplacement] at hr
    obtain ⟨z, hz⟩ := State.hasFeeds_iff.mp (h.held src hs hr')
    refine State.hasFeeds_iff.mpr ⟨z, ?_⟩
    rw [State.inUse, hfeed, State.contains_activeAmong, hunplaced hr', Bool.and_false, if_neg Bool.false_ne_true]
    exact hz

theorem countP_le_add {α : Type} {P Q R : α → Bool} (h : ∀ x, P x = true → Q x = true ∨ R x = true) (l : List α) :
    l.countP P ≤ l.countP Q + l.countP R := by
  induction l with
  | nil => simp
  | cons x l ih =>
    have hx : (if P x = true then 1 else 0) ≤ (if Q x = true then 1 else 0) + (if R x = true then 1 else 0) := by
      split
      · next hP => rcases h x hP with e | e <;> simp [e]
      · exact Nat.zero_le _
    simp only [List.countP_cons]
    omega

/-- A reconciliation uses no more records than were used and it needs anew (R29). -/
theorem State.usedCount_reconcileMany (hq : s.QueueUsed) (chosen : Source → Bool) :
    (s.reconcileMany chosen).usedCount ≤ s.usedCount + s.newRecords chosen :=
  countP_le_add (fun _ hk => State.inUse_reconcileMany hq hk) allFeeds

/-- A request behind the pool check (R29). -/
theorem KeepsPool.afterPoolCheck {written : State} {chosen : Source → Bool} {finish : State → State}
    (hfinish : ∀ t, (finish t).pool = t.pool) (hfeeds : written.feeds = s.feeds)
    (hqueue : s.QueueOk → written.QueueOk)
    (hplaced : s.PlacedBut noSource noSource → written.PlacedBut (chosen · = true) noSource) :
    KeepsPool s (afterPoolCheck s (s.poolChecked written chosen) finish).2 := by
  rw [afterPoolCheck_eq]
  split
  · exact .refl s
  · next hfits =>
    have hrec : KeepsPool s (written.reconcileMany chosen) := by
      refine .of_phases (fun h => (hqueue h).reconcileMany chosen) fun h hp hused =>
        ⟨(hplaced hp).reconcileMany (hqueue h) fun _ => id, ?_⟩
      have hcount : written.usedCount = s.usedCount :=
        State.usedCount_congr (State.inUse_congr (State.phase_congr hfeeds))
      have hnew := State.usedCount_reconcileMany (hqueue h).used chosen
      unfold State.freeCount at hfits
      omega
    exact hrec.trans (.of_pool (by rw [State.pool_closeEvent, hfinish]))

end

end Sys2Proof.Machine
end

section
/-! ## Feeds dropped, released and derived -/

namespace Sys2Proof.Machine

section
variable {s : State}

/-! ### The removal of RETIRING placements left empty -/

/-- A RETIRING placement that holds no feed is removed; nothing else is done (R36). -/
theorem State.removeIfEmpty_cases (s : State) (src : Source) :
    (s.removeIfEmpty src = s ∧ (s.IsRetiring src → s.hasFeeds src = true)) ∨
      (s.removeIfEmpty src = s.setPlacement src none ∧ s.IsRetiring src ∧ s.hasFeeds src = false) := by
  unfold State.removeIfEmpty State.IsRetiring
  cases hp : s.placement src with
  | none => exact .inl ⟨rfl, by simp⟩
  | some p =>
    by_cases hc : p.state = .retiring ∧ (!s.hasFeeds src) = true
    · exact .inr ⟨if_pos hc, ⟨p, rfl, hc.1⟩, by simpa using hc.2⟩
    · refine .inl ⟨if_neg hc, ?_⟩
      rintro ⟨q, hq, hr⟩
      cases hq
      simpa [hr] using hc

theorem State.usedCount_removeIfEmpty (s : State) (src : Source) : (s.removeIfEmpty src).usedCount = s.usedCount := by
  rcases s.removeIfEmpty_cases src with ⟨e, -⟩ | ⟨e, -⟩
  · rw [e]
  · rw [e]
    rfl

theorem State.QueueOk.removeIfEmpty (h : s.QueueOk) (src : Source) : (s.removeIfEmpty src).QueueOk := by
  rcases s.removeIfEmpty_cases src with ⟨e, -⟩ | ⟨e, -, hempty⟩
  · rwa [e]
  · rw [e]
    refine ⟨h.nodup, h.live, h.queued, fun k hk => ?_⟩
    have hne : src ≠ k.1 := by
      rintro rfl
      exact Bool.false_ne_true (hempty.symm.trans (State.hasFeeds_iff.mpr ⟨k.2, hk⟩))
    rw [State.placement_setPlacement, if_neg hne]
    exact h.owned k hk

/-- The removal of a source's placement where it is left empty sweeps that source. -/
theorem State.PlacedBut.removeIfEmpty {unswept : Source → Prop} (h : s.PlacedBut noSource unswept) (src : Source) :
    (s.removeIfEmpty src).PlacedBut noSource fun x => unswept x ∧ x ≠ src := by
  rcases s.removeIfEmpty_cases src with ⟨e, hheld⟩ | ⟨e, -, -⟩
  · rw [e]
    refine ⟨h.present, h.fed, h.leaving, fun x hx hr => ?_⟩
    by_cases hs : x = src
    · exact hs ▸ hheld (hs ▸ hr)
    · exact h.held x (fun hu => hx ⟨hu, hs⟩) hr
  · rw [e]
    have hother {x : Source} {p : Placement} (hp : (s.setPlacement src none).placement x = some p) :
        s.placement x = some p ∧ x ≠ src := by
      rw [State.placement_setPlacement] at hp
      split at hp
      · cases hp
      · next hne => exact ⟨hp, fun hs => hne hs.symm⟩
    refine ⟨fun x p hp => h.present x p (hother hp).1, fun k _ hk => ?_,
      fun x ⟨p, hp, hr⟩ => h.leaving x ⟨p, (hother hp).1, hr⟩,
      fun x hx ⟨p, hp, hr⟩ => h.held x (fun hu => hx ⟨hu, (hother hp).2⟩) ⟨p, (hother hp).1, hr⟩⟩
    obtain ⟨p, hp, ha⟩ := ((s.setPlacement src none).isPlaced_iff k.1).mp hk
    have hw : (s.setPlacement src none).wants k = s.wants k :=
      State.wants_congr (s := s) (t := s.setPlacement src none) rfl rfl rfl (hp.trans (hother hp).1.symm)
    exact hw.trans (h.fed k id ((s.isPlaced_iff k.1).mpr ⟨p, (hother hp).1, ha⟩))

theorem State.QueueOk.foldl_removeIfEmpty (h : s.QueueOk) (l : List Source) :
    (l.foldl State.removeIfEmpty s).QueueOk :=
  List.foldlRecOn l _ (motive := State.QueueOk) h fun _ ht src _ => ht.removeIfEmpty src

theorem State.usedCount_foldl_removeIfEmpty (s : State) (l : List Source) :
    (l.foldl State.removeIfEmpty s).usedCount = s.usedCount :=
  List.foldlRecOn l _ (motive := fun t : State => t.usedCount = s.usedCount) rfl
    fun t ht src _ => (t.usedCount_removeIfEmpty src).trans ht

/-- The removals over a list of sources sweep its sources. -/
theorem State.PlacedBut.foldl_removeIfEmpty {unswept : Source → Prop} (h : s.PlacedBut noSource unswept)
    (l : List Source) : (l.foldl State.removeIfEmpty s).PlacedBut noSource fun x => unswept x ∧ x ∉ l := by
  induction l generalizing s unswept with
  | nil => exact h.mono (fun _ => id) fun _ hx => ⟨hx, by simp⟩
  | cons src l ih =>
    exact (ih (h.removeIfEmpty src)).mono (fun _ => id) fun x ⟨⟨hu, hs⟩, hl⟩ => ⟨hu, by simp [hs, hl]⟩

/-! ### Feeds that leave the pool -/

/-- Some feeds have become FADING_OUT or free, each off the queue: what is left keeps the condition on the queue. -/
theorem State.QueueOk.shrink {t : State} (h : s.QueueOk) (stays : FeedKey → Bool)
    (hqueue : t.queue = s.queue.filter stays)
    (hkept : ∀ k, stays k = true → t.phase k = s.phase k)
    (hout : ∀ k, stays k = false → t.phase k ≠ some .waiting)
    (hused : ∀ k, t.inUse k = true → s.inUse k = true)
    (hpl : ∀ src, (s.placement src).isSome = true → (t.placement src).isSome = true) : t.QueueOk := by
  refine ⟨hqueue ▸ h.nodup.filter _, fun k hk => ?_, fun k hk => ?_, fun k hk => hpl _ (h.owned k (hused k hk))⟩
  · rw [hqueue, List.mem_filter] at hk
    rw [State.isOfferable_iff_phase, hkept k hk.2, ← State.isOfferable_iff_phase]
    exact h.live k hk.1
  · cases hs : stays k with
    | false => exact absurd hk (hout k hs)
    | true =>
      rw [hqueue, List.mem_filter]
      exact ⟨h.queued k ((hkept k hs).symm.trans hk), hs⟩

/-- The placements under feeds that only FADING_OUT ones have left: some RETIRING placements may be empty. -/
theorem State.PlacedBut.thinned {t : State} (h : s.PlacedBut noSource noSource) (unswept : Source → Prop)
    (hst : t.stations = s.stations) (hz : t.zones = s.zones) (ha : t.areas = s.areas) (hpl : t.placement = s.placement)
    (hoff : t.isOfferable = s.isOfferable) (hheld : ∀ src, ¬ unswept src → t.hasFeeds src = s.hasFeeds src) :
    t.PlacedBut noSource unswept := by
  refine ⟨by rw [hpl, hst]; exact h.present, fun k _ hk => ?_, by
    unfold State.IsRetiring
    rw [hpl, hoff]
    exact h.leaving, fun src hs hr => ?_⟩
  · rw [State.isPlaced_congr hpl] at hk
    rw [State.wants_congr hst hz ha (congrFun hpl k.1), hoff]
    exact h.fed k id hk
  · rw [hheld src hs]
    unfold State.IsRetiring at hr
    rw [hpl] at hr
    exact h.held src id hr

theorem State.phase_release (s : State) (k j : FeedKey) : (s.release k).phase j = if k = j then none else s.phase j := by
  unfold State.phase
  rw [State.feed_release]
  split <;> rfl

theorem State.inUse_release {k j : FeedKey} (h : (s.release k).inUse j = true) : s.inUse j = true := by
  rw [State.inUse_eq_isSome, State.phase_release] at h
  rw [State.inUse_eq_isSome]
  split at h
  · cases h
  · exact h

/-- The release of a FADING_OUT feed leaves the feeds that are not FADING_OUT. -/
theorem State.isOfferable_release {k : FeedKey} (h : s.isOfferable k = false) :
    (s.release k).isOfferable = s.isOfferable := by
  funext j
  rw [Bool.eq_iff_iff, State.isOfferable_iff_phase, State.phase_release]
  split
  · next e => simp [← e, h]
  · exact State.isOfferable_iff_phase.symm

theorem State.hasFeeds_release {k : FeedKey} {src : Source} (h : src ≠ k.1) :
    (s.release k).hasFeeds src = s.hasFeeds src := by
  unfold State.hasFeeds
  refine congrArg (List.any allZones) (funext fun z => ?_)
  have hne : k ≠ (src, z) := by
    rintro rfl
    exact h rfl
  rw [State.inUse_eq_isSome, State.inUse_eq_isSome, State.phase_release, if_neg hne]

theorem State.QueueOk.release (h : s.QueueOk) (k : FeedKey) : (s.release k).QueueOk := by
  refine h.shrink (t := s.release k) (· ≠ k) rfl (fun j hj => ?_) (fun j hj => ?_)
    (fun _ => State.inUse_release) fun _ => id
  · rw [State.phase_release, if_neg fun e => of_decide_eq_true hj e.symm]
  · rw [State.phase_release, if_pos (not_not.mp (of_decide_eq_false hj)).symm]
    exact nofun

/-- A fade-out that ends releases its feed and may remove the placement it leaves empty (R25, R36). -/
theorem KeepsPool.completeFadeOut (s : State) (k : FeedKey) : KeepsPool s (s.completeFadeOut k) := by
  unfold State.completeFadeOut
  split
  · next f hf =>
    split
    · next r hr =>
      split
      · have hleaving : s.isOfferable k = false := by simp [State.isOfferable, hf, hr, FeedState.isFadingOut]
        refine KeepsPool.trans (.of_phases (fun h => (h.release k).removeIfEmpty k.1) fun _ h hused => ⟨?_, ?_⟩)
          (.of_pool (State.pool_closeEvent _ s))
        · have hreleased : (s.release k).PlacedBut noSource (· = k.1) :=
            h.thinned _ rfl rfl rfl rfl (State.isOfferable_release hleaving) fun src => State.hasFeeds_release
          exact (hreleased.removeIfEmpty k.1).mono (fun _ => id) fun x hx => hx.2 hx.1
        · rw [State.usedCount_removeIfEmpty]
          exact (State.usedCount_mono fun _ => State.inUse_release).trans hused
      · exact .refl s
    · exact .refl s
  · exact .refl s

/-! ### Retiring -/

/-- Every feed of a source dropped, its zones ascending (R35). -/
def State.dropFeeds (s : State) (src : Source) : State := allZones.foldl (fun t z => t.drop (src, z)) s

/-- The drops take the source's feeds off the queue and leave of each what R24 says, and touch nothing else. -/
theorem State.dropFeeds_spec (hq : s.QueueUsed) (src : Source) :
    (∃ F, s.dropFeeds src = { s with feeds := F, queue := s.queue.filter fun k => k.1 != src }) ∧
    ∀ k, (s.dropFeeds src).feed k = if k.1 = src then (s.feed k).bind s.droppedFeed else s.feed k := by
  obtain ⟨F, hF, hfeed⟩ := s.foldl_drop src allZones nodup_allZones hq
  have hqueue : s.queue.filter (fun k => !(k.1 == src && allZones.contains k.2)) = s.queue.filter fun k => k.1 != src :=
    List.filter_congr fun k _ => by simp [bne]
  exact ⟨⟨F, hF.trans (by rw [hqueue])⟩, fun k => (hfeed k).trans (by simp)⟩

theorem State.phase_dropFeeds_other (hq : s.QueueUsed) {src : Source} {k : FeedKey} (hk : k.1 ≠ src) :
    (s.dropFeeds src).phase k = s.phase k := by
  rw [State.phase, (s.dropFeeds_spec hq src).2 k, if_neg hk]
  rfl

/-- A dropped feed is free, or it was in use and is FADING_OUT (R24). -/
theorem State.phase_dropFeeds_same (hq : s.QueueUsed) {src : Source} {k : FeedKey} (hk : k.1 = src) :
    (s.dropFeeds src).phase k = none ∨ ((s.dropFeeds src).phase k = some .leaving ∧ s.inUse k = true) := by
  rw [State.phase, (s.dropFeeds_spec hq src).2 k, if_pos hk]
  cases h : (s.feed k).bind s.droppedFeed with
  | none => exact .inl rfl
  | some g =>
    obtain ⟨f, hf, hg⟩ := Option.bind_eq_some_iff.mp h
    exact .inr ⟨congrArg some (FeedState.phase_eq_leaving.mpr (s.isFadingOut_of_dropped hg)), by simp [State.inUse, hf]⟩

theorem State.inUse_dropFeeds (hq : s.QueueUsed) {src : Source} {k : FeedKey} (hk : (s.dropFeeds src).inUse k = true) :
    s.inUse k = true := by
  by_cases hsrc : k.1 = src
  · rcases s.phase_dropFeeds_same hq hsrc with e | ⟨-, e⟩
    · simp [State.inUse_eq_isSome, e] at hk
    · exact e
  · rwa [State.inUse_eq_isSome, s.phase_dropFeeds_other hq hsrc, ← State.inUse_eq_isSome] at hk

theorem State.QueueOk.dropFeeds (h : s.QueueOk) (src : Source) : (s.dropFeeds src).QueueOk := by
  obtain ⟨⟨F, hF⟩, -⟩ := s.dropFeeds_spec h.used src
  refine h.shrink (fun k => k.1 != src) (by rw [hF]) (fun k hk => s.phase_dropFeeds_other h.used (by simpa using hk))
    (fun k hk e => ?_) (fun k => s.inUse_dropFeeds h.used) (by rw [hF]; exact fun _ => id)
  rcases s.phase_dropFeeds_same h.used (by simpa using hk) with e' | ⟨e', -⟩
  · cases e.symm.trans e'
  · cases e.symm.trans e'

/-- A placement that is RETIRING from now on, its feeds dropped: it may be empty. -/
theorem State.PlacedBut.dropFeeds (hq : s.QueueOk) (h : s.PlacedBut noSource noSource) (src : Source) {p : Placement}
    (hr : p.state = .retiring) :
    ((s.setPlacement src (some p)).dropFeeds src).PlacedBut noSource (· = src) := by
  have hmq : (s.setPlacement src (some p)).QueueUsed := (hq.setPlacement src p).used
  obtain ⟨⟨F, hF⟩, -⟩ := (s.setPlacement src (some p)).dropFeeds_spec hmq src
  generalize hd : (s.setPlacement src (some p)).dropFeeds src = t at hF
  have hplacement (x : Source) : t.placement x = if src = x then some p else s.placement x := by
    rw [← State.placement_setPlacement, hF]
    rfl
  have hphase {x : Source} (hx : x ≠ src) (z : Zone) : t.phase (x, z) = s.phase (x, z) :=
    hd ▸ State.phase_dropFeeds_other hmq hx
  have hoff {x : Source} (hx : x ≠ src) (z : Zone) : t.isOfferable (x, z) = s.isOfferable (x, z) := by
    rw [Bool.eq_iff_iff, State.isOfferable_iff_phase, hphase hx, State.isOfferable_iff_phase]
  refine ⟨fun x q hx ha => ?_, fun k _ hk => ?_, fun x hx z => ?_, fun x hx hxr => ?_⟩
  · rw [hplacement] at hx
    split at hx
    · cases hx
      rw [hr] at ha
      cases ha
    · rw [hF]
      exact h.present x q hx ha
  · obtain ⟨q, hkq, ha⟩ := (t.isPlaced_iff k.1).mp hk
    rw [hplacement] at hkq
    split at hkq
    · cases hkq
      rw [hr] at ha
      cases ha
    · next hne =>
      have hw : t.wants k = s.wants k := State.wants_congr (s := s) (t := t) (by rw [hF]; rfl) (by rw [hF]; rfl)
        (by rw [hF]; rfl) ((hplacement k.1).trans (if_neg hne))
      rw [hw, hoff fun e => hne e.symm]
      exact h.fed k id ((s.isPlaced_iff k.1).mpr ⟨q, hkq, ha⟩)
  · by_cases hsrc : x = src
    · rw [Bool.eq_false_iff, ne_eq, State.isOfferable_iff_phase, ← hd]
      rcases State.phase_dropFeeds_same hmq (k := (x, z)) hsrc with e | ⟨e, -⟩ <;> simp [e]
    · rw [hoff hsrc]
      obtain ⟨q, hq', hxr⟩ := hx
      rw [hplacement, if_neg fun e => hsrc e.symm] at hq'
      exact h.leaving x ⟨q, hq', hxr⟩ z
  · obtain ⟨q, hq', hxr⟩ := hxr
    rw [hplacement, if_neg fun e => hx e.symm] at hq'
    obtain ⟨z, hz⟩ := State.hasFeeds_iff.mp (h.held x id ⟨q, hq', hxr⟩)
    exact State.hasFeeds_iff.mpr ⟨z, by rwa [State.inUse_eq_isSome, hphase hx, ← State.inUse_eq_isSome]⟩

/-- RETIRE keeps the conditions (R35, R36). -/
theorem KeepsPool.retireOp (s : State) (src : Source) : KeepsPool s (retireOp src s).2 := by
  unfold Machine.retireOp
  dsimp only
  split
  · exact .refl s
  · next p hp =>
    split
    · exact .refl s
    · refine KeepsPool.trans
        (t := ((s.setPlacement src (some { p with state := .retiring })).dropFeeds src).removeIfEmpty src)
        (.of_phases (fun h => ?_) fun hq h hused => ⟨?_, ?_⟩)
        (.of_pool (by rw [State.pool_closeEvent, State.pool_takeUpDrive]; rfl))
      · exact ((h.setPlacement src _).dropFeeds src).removeIfEmpty src
      · exact ((h.dropFeeds hq src rfl).removeIfEmpty src).mono (fun _ => id) fun x hx => hx.2 hx.1
      · rw [State.usedCount_removeIfEmpty]
        exact (State.usedCount_mono fun k hk => State.inUse_dropFeeds (hq.setPlacement src _).used hk).trans hused

/-! ### The end of a standby entry -/

/-- The part at the completion of standby entry, before RETIRING placements are removed (R163). -/
def State.entered (s : State) : State :=
  { s with
    service := { s.service with state := .standby, ramp := Ramp.rest 0 }
    feeds := s.feedsAtStandby
    channels := vgen fun src =>
      { vget s.channels src with gate := .closed, history := (vget s.channels src).history.clear }
    detectors := vgen fun _ => Detector.idle }

theorem State.completeEntry_eq (s : State) :
    s.completeEntry = s.closeEvent (allSources.foldl State.removeIfEmpty s.entered) := rfl

theorem State.feed_entered (s : State) (k : FeedKey) :
    s.entered.feed k = (s.feed k).bind fun f => if f.state.isFadingOut then none else some f.atStandby := by
  obtain ⟨src, z⟩ := k
  show vget (vget s.feedsAtStandby src) z = _
  rw [State.feedsAtStandby, vget_vgen, vget_vgen]
  cases s.feed (src, z) <;> rfl

/-- The FADING_OUT feeds are free, and the others stay in their phases. -/
theorem State.phase_entered (s : State) (k : FeedKey) :
    s.entered.phase k = if s.isOfferable k then s.phase k else none := by
  rw [State.phase, State.feed_entered, State.isOfferable, State.phase]
  cases s.feed k with
  | none => rfl
  | some f => cases hs : f.state <;> simp [Feed.atStandby, FeedState.phase, FeedState.isFadingOut, hs]

theorem State.isOfferable_entered (s : State) : s.entered.isOfferable = s.isOfferable := by
  funext k
  rw [Bool.eq_iff_iff, State.isOfferable_iff_phase, State.phase_entered]
  split
  · exact State.isOfferable_iff_phase.symm
  · next h => simp [h]

theorem State.inUse_entered {k : FeedKey} (h : s.entered.inUse k = true) : s.inUse k = true := by
  rw [State.inUse_eq_isSome, State.phase_entered] at h
  split at h
  · next hk => exact State.inUse_of_isOfferable hk
  · cases h

/-- The completion of standby entry keeps the conditions (R163). -/
theorem KeepsPool.endEntry (s : State) : KeepsPool s s.endEntry := by
  unfold State.endEntry
  split
  · rw [State.completeEntry_eq]
    refine KeepsPool.trans (.of_phases (fun h => ?_) fun hq h hused => ⟨?_, ?_⟩) (.of_pool (State.pool_closeEvent _ s))
    · refine (h.shrink (t := s.entered) s.isOfferable (List.filter_eq_self.mpr h.live).symm (fun k hk => ?_)
        (fun k hk => ?_) (fun _ => State.inUse_entered) fun _ => id).foldl_removeIfEmpty allSources
      · rw [State.phase_entered, if_pos hk]
      · rw [State.phase_entered, hk]
        exact nofun
    · have hentered : s.entered.PlacedBut noSource fun _ => True :=
        h.thinned _ rfl rfl rfl rfl s.isOfferable_entered fun _ hn => absurd trivial hn
      exact (hentered.foldl_removeIfEmpty allSources).mono (fun _ => id) fun x hx => hx.2 (mem_allSources x)
    · rw [State.usedCount_foldl_removeIfEmpty]
      exact (State.usedCount_mono fun _ => State.inUse_entered).trans hused
  · exact .refl s

/-! ### The clearing of a warm restart -/

/-- A cleared pool has no feed in use (R167). -/
theorem State.feed_cleared (s : State) (cause : RestartCause) (pins : Byte) (k : FeedKey) :
    (s.cleared cause pins).feed k = none := by
  simp [State.feed, State.cleared]

theorem State.placement_cleared {cause : RestartCause} {pins : Byte} {src : Source} {p : Placement} :
    (s.cleared cause pins).placement src = some p ↔ s.placement src = some p ∧ p.state = .active := by
  simp [State.placement, State.cleared, keptPlacement, Option.filter_eq_some_iff]

/-- With no feed in use and none queued, the condition on the queue holds. -/
theorem State.queueOk_of_empty {t : State} (hq : t.queue = []) (hf : ∀ k, t.feed k = none) : t.QueueOk where
  nodup := by simp [hq]
  live := by simp [hq]
  queued k hk := by simp [State.phase, hf] at hk
  owned k hk := by simp [State.inUse, hf] at hk

/-- With no placement, the condition on the placements holds. -/
theorem State.placedBut_of_none {t : State} (h : ∀ src, t.placement src = none) : t.PlacedBut noSource noSource where
  present src p hp := by simp [h] at hp
  fed k _ hk := by simp [State.isPlaced, h] at hk
  leaving src hr := by simp [State.IsRetiring, h] at hr
  held src _ hr := by simp [State.IsRetiring, h] at hr

theorem State.placedBut_cleared (h : s.PlacedBut noSource noSource) (cause : RestartCause) (pins : Byte) :
    (s.cleared cause pins).PlacedBut (fun _ => True) noSource := by
  have hnone {src : Source} (hr : (s.cleared cause pins).IsRetiring src) : False := by
    obtain ⟨p, hp, hr⟩ := hr
    rw [(State.placement_cleared.mp hp).2] at hr
    cases hr
  exact ⟨fun src p hp ha => h.present src p (State.placement_cleared.mp hp).1 ha, fun k hk => absurd trivial hk,
    fun src hr => (hnone hr).elim, fun src _ hr => (hnone hr).elim⟩

/-- The rebuild wants no zone that was not fed before: its records are within those that were in use (R44, R167). -/
theorem State.newRecords_cleared (h : s.PlacedBut noSource noSource) (cause : RestartCause) (pins : Byte)
    (chosen : Source → Bool) : (s.cleared cause pins).newRecords chosen ≤ s.usedCount := by
  refine List.countP_mono_left fun k _ hk => ?_
  simp only [Bool.and_eq_true] at hk
  obtain ⟨⟨-, hw⟩, -⟩ := hk
  obtain ⟨p, hp, ha⟩ := ((s.cleared cause pins).isPlaced_iff k.1).mp (State.placed_of_wants _ hw)
  have hp' := (State.placement_cleared.mp hp).1
  have hwants : (s.cleared cause pins).wants k = s.wants k :=
    State.wants_congr (s := s) (t := s.cleared cause pins) rfl rfl rfl (hp.trans hp'.symm)
  refine State.inUse_of_isOfferable ?_
  rw [← h.fed k id ((s.isPlaced_iff k.1).mpr ⟨p, hp', ha⟩), ← hwants, hw]

/-- The clearing frees every record, removes the RETIRING placements and rebuilds the ACTIVE ones (R44, R167). -/
theorem KeepsPool.clear (s : State) (cause : RestartCause) (pins : Byte) : KeepsPool s (s.clear cause pins) := by
  have hqueue : (s.cleared cause pins).QueueOk := State.queueOk_of_empty rfl (s.feed_cleared cause pins)
  have hnone : (s.cleared cause pins).usedCount = 0 :=
    List.countP_eq_zero.mpr fun k _ => by simp [State.inUse, State.feed_cleared]
  refine KeepsPool.trans (t := (s.cleared cause pins).reconcileMany fun _ => true)
    (.of_phases (fun _ => hqueue.reconcileMany _) fun _ h hused =>
      ⟨(State.placedBut_cleared h cause pins).reconcileMany hqueue fun _ _ => rfl, ?_⟩) (.of_pool ?_)
  · have hrebuilt := (s.cleared cause pins).usedCount_reconcileMany hqueue.used fun _ => true
    have hnew := State.newRecords_cleared h cause pins fun _ => true
    omega
  · unfold State.clear
    rw [State.pool_refreshGains, foldl_pool _ State.pool_takeUpDrive]

/-! ### Derivations -/

/-- A delay applied outside STANDBY leaves the state of a feed that has a tap (R65). -/
theorem Feed.state_applyDelay {f : Feed} (h : f.state ≠ .waiting) (delay : Nat) (timing : Timing) :
    (f.applyDelay delay timing).state = f.state := by
  unfold Feed.applyDelay
  split
  · next hw => exact absurd hw h
  · split <;> rfl
  · split <;> rfl

theorem Feed.phase_applyDelay {f : Feed} (h : f.state.isFadingOut = false) (delay : Nat) (timing : Timing) :
    (f.applyDelay delay timing).state.phase = .sounding := by
  by_cases hw : f.state = .waiting
  · simp only [Feed.applyDelay, hw]
    rfl
  · rw [Feed.state_applyDelay hw]
    exact FeedState.phase_eq_sounding.mpr ⟨hw, h⟩

theorem Feed.phase_applyDelayStandby {f : Feed} (h : f.state.isFadingOut = false) (delay : Nat) :
    (f.applyDelayStandby delay).state.phase = .sounding := by
  unfold Feed.applyDelayStandby
  split
  · rfl
  · next hw => exact FeedState.phase_eq_sounding.mpr ⟨hw, h⟩

/-- A derived feed sounds (R65, R66). -/
theorem State.phase_derivedFeed (s : State) (k : FeedKey) {f : Feed} (p : Placement) (h : f.state.isFadingOut = false) :
    (s.derivedFeed k f p).state.phase = .sounding := by
  unfold State.derivedFeed
  dsimp only
  split
  · refine Feed.phase_applyDelayStandby ?_ _
    exact h
  · refine Feed.phase_applyDelay ?_ _ _
    exact h

/-- A feed that leaves the head of the queue and sounds from then on. -/
theorem KeepsPool.sound {k : FeedKey} {rest : List FeedKey} (hqueue : s.queue = k :: rest) {g : Feed}
    (hg : g.state.phase = .sounding) : KeepsPool s (({ s with queue := rest } : State).setFeed k (some g)) := by
  generalize ht : ({ s with queue := rest } : State).setFeed k (some g) = t
  have hphase (j : FeedKey) : t.phase j = if k = j then some .sounding else s.phase j := by
    rw [← ht, State.phase, State.feed_setFeed]
    split
    · exact congrArg some hg
    · rfl
  have hoff (h : s.QueueOk) : t.isOfferable = s.isOfferable := by
    funext j
    rw [Bool.eq_iff_iff, State.isOfferable_iff_phase, hphase]
    split
    · next e => simp [← e, h.live k (by simp [hqueue])]
    · exact State.isOfferable_iff_phase.symm
  have hused (h : s.QueueOk) : t.inUse = s.inUse := by
    funext j
    rw [State.inUse_eq_isSome, hphase]
    split
    · next e => exact (State.inUse_of_isOfferable (h.live j (by simp [hqueue, e]))).symm
    · exact (s.inUse_eq_isSome j).symm
  have hqt : t.queue = rest := by rw [← ht]; rfl
  have hpl : t.placement = s.placement := by rw [← ht]; rfl
  refine .of_phases (fun h => ?_) fun hq h hle => ⟨?_, ?_⟩
  · have hnodup := h.nodup
    rw [hqueue, List.nodup_cons] at hnodup
    refine ⟨hqt ▸ hnodup.2, fun j hj => ?_, fun j hj => ?_, by rw [hused h, hpl]; exact h.owned⟩
    · rw [hoff h]
      exact h.live j (by rw [hqueue, ← hqt]; exact .tail _ hj)
    · rw [hphase] at hj
      split at hj
      · cases hj
      · next hne =>
        have hmem := h.queued j hj
        rw [hqueue] at hmem
        rw [hqt]
        exact (List.mem_cons.mp hmem).resolve_left fun e => hne e.symm
  · refine h.congr hpl (fun _ _ _ _ hp => ?_) (fun j _ _ => ?_) (hoff hq) (State.hasFeeds_congr (hused hq))
    · rw [← ht]
      exact hp
    · rw [← ht]
      rfl
  · exact (State.usedCount_congr (hused hq)).trans_le hle

theorem KeepsPool.of_queueOk {t : State} (h : s.QueueOk → KeepsPool s t) : KeepsPool s t :=
  ⟨fun hf => (h (s.feedsOk_iff.mp hf)).feeds hf, fun hp => (h (s.placementsOk_iff.mp hp).1).placements hp⟩

/-- A derivation takes the feed at the head of the queue, which sounds from then on (R46, R49, R65). -/
theorem KeepsPool.derive (s : State) : KeepsPool s s.derive := by
  refine .of_queueOk fun h => ?_
  unfold State.derive
  split
  · exact .refl s
  · next k rest hqueue =>
    have hk : k ∈ s.queue := by simp [hqueue]
    obtain ⟨f, hf, hout⟩ := State.isOfferable_iff.mp (h.live k hk)
    obtain ⟨p, hp⟩ := Option.isSome_iff_exists.mp (h.owned k (State.inUse_of_isOfferable (h.live k hk)))
    simp only [hf, hp, hout, Bool.false_eq_true, if_false]
    refine (KeepsPool.sound hqueue (State.phase_derivedFeed { s with queue := rest } k p hout)).trans (.of_pool ?_)
    rw [State.pool_closeEvent]
    unfold State.deriveFeed
    dsimp only
    split <;> rfl

end

end Sys2Proof.Machine
end

section
/-! ## Every command keeps the pool -/

namespace Sys2Proof.Machine

variable {s : State}

/-! ### The placement and building operations -/

theorem PlacementState.eq_active {st : PlacementState} (h : ¬ st = .retiring) : st = .active := by
  cases st with
  | active => rfl
  | retiring => exact absurd rfl h

theorem KeepsPool.placeOp (s : State) (src : Source) (st : StationId) (sv : Service) (level : Int) :
    KeepsPool s (placeOp src st sv level s).2 := by
  unfold Machine.placeOp
  dsimp only
  split
  · exact .refl s
  · split
    · exact .refl s
    · next hst =>
      refine .afterPoolCheck (fun t => t.pool_takeUpDrive src) rfl (fun h => h.setPlacement src _) fun h => ?_
      exact (h.setActive src rfl (by simpa using hst)).mono (fun x hx => by simp [hx]) fun _ => id

theorem KeepsPool.moveOp (s : State) (src : Source) (st : StationId) : KeepsPool s (moveOp src st s).2 := by
  unfold Machine.moveOp
  dsimp only
  split
  · exact .refl s
  · next p hp =>
    split
    · exact .refl s
    · next hr =>
      split
      · exact .refl s
      · next hst =>
        split
        · exact .refl s
        · have ha : p.state = .active := PlacementState.eq_active hr
          refine .afterPoolCheck (fun _ => rfl) rfl (fun h => h.setPlacement src _) fun h => ?_
          exact (h.setActive src (p := { p with station := st }) ha (by simpa using hst)).mono
            (fun x hx => by simp [hx]) fun _ => id

/-- SET_LEVEL writes the level of an ACTIVE placement and offers its feeds (R34). -/
theorem KeepsPool.setLevelOp (s : State) (src : Source) (level : Int) : KeepsPool s (setLevelOp src level s).2 := by
  unfold Machine.setLevelOp
  dsimp only
  split
  · exact .refl s
  · next p hp =>
    split
    · exact .refl s
    · next hr =>
      have ha : p.state = .active := PlacementState.eq_active hr
      have hwritten : KeepsPool s (s.setPlacement src (some { p with level := level })) := by
        refine .of_phases (fun h => h.setPlacement src _) fun _ h hused => ⟨?_, hused⟩
        have hactive := h.setActive src (p := { p with level := level }) ha (h.present src p hp ha)
        refine { hactive with fed := fun k _ hk => ?_ }
        by_cases hsrc : k.1 = src
        · have hw : (s.setPlacement src (some { p with level := level })).wants k = s.wants k := by
            simp only [State.wants, hsrc, State.placement_setPlacement_same, hp, State.setPlacement_stations,
              State.setPlacement_zones, State.setPlacement_areas]
          exact hw.trans (h.fed k id ((s.isPlaced_iff k.1).mpr ⟨p, hsrc ▸ hp, ha⟩))
        · exact hactive.fed k hsrc hk
      exact hwritten.trans ((KeepsPool.offerAll _ (nodup_feedsOf _)).trans (.of_pool (State.pool_closeEvent _ s)))

theorem KeepsPool.setStationOp (s : State) (st : StationId) (position : Point) (reach : ZoneSet) :
    KeepsPool s (setStationOp st position reach s).2 := by
  unfold Machine.setStationOp
  dsimp only
  split
  · next habsent =>
    refine .writeStation fun src p _ _ hpr e => ?_
    rw [← e] at hpr
    simp [hpr] at habsent
  · split
    · refine .afterPoolCheck (fun _ => rfl) rfl (fun h => h.congr rfl rfl fun _ => id) fun h => ?_
      refine ⟨fun src p hp ha => ?_, fun k hk hplaced => ?_, h.leaving, h.held⟩
      · show (vget (vset s.stations st _) p.station).present = true
        rw [vget_vset]
        split
        · rfl
        · exact h.present src p hp ha
      · obtain ⟨p, hp, ha⟩ := (s.isPlaced_iff k.1).mp hplaced
        have helsewhere : st ≠ p.station := fun e => hk ((s.standsAt_iff st k.1).mpr ⟨p, hp, ha, e.symm⟩)
        exact (State.wants_writeStation hp (fun e => absurd e helsewhere) k.2).trans (h.fed k id hplaced)
    · next hreach =>
      split
      · refine (KeepsPool.writeStation fun src p _ _ hpr e => ⟨rfl, (not_not.mp hreach).symm⟩).trans
          ((KeepsPool.offerAll _ (nodup_feedsOf _)).trans (.of_pool (State.pool_closeEvent _ s)))
      · exact .refl s

theorem KeepsPool.setZoneOp (s : State) (z : Zone) (r : ZoneRecord) : KeepsPool s (setZoneOp z r s).2 := by
  unfold Machine.setZoneOp
  dsimp only
  split
  · refine .afterPoolCheck (fun _ => rfl) rfl (fun h => h.congr rfl rfl fun _ => id) fun h => ?_
    exact ⟨h.present, fun k hk => absurd rfl hk, h.leaving, h.held⟩
  · next ha =>
    have hwrite : KeepsPool s (s.writeZone z r) := .writeZone (not_not.mp ha)
    split
    · exact hwrite.trans ((KeepsPool.offerAll _ (nodup_zoneKeys z)).trans (.of_pool (State.pool_closeEvent _ s)))
    · exact hwrite

theorem KeepsPool.setAreaOp (s : State) (a : AreaId) (mode : AreaMode) : KeepsPool s (setAreaOp a mode s).2 := by
  unfold Machine.setAreaOp
  split
  · exact .refl s
  · refine .afterPoolCheck (fun _ => rfl) rfl (fun h => h.congr rfl rfl fun _ => id) fun h => ?_
    exact ⟨h.present, fun k hk => absurd rfl hk, h.leaving, h.held⟩

theorem KeepsPool.reportTemperature (s : State) (t : Int) : KeepsPool s (reportTemperature t s) := by
  unfold Machine.reportTemperature
  dsimp only
  split
  · exact ((KeepsPool.offerAll _ nodup_allFeeds).trans (.of_pool (State.pool_closeEvent _ s))).congr_left rfl
  · exact .of_pool rfl

/-! ### Cue Lines -/

theorem KeepsPool.perform (a : CueAction) (s : State) : KeepsPool s (a.perform s).2 := by
  cases a with
  | none => exact .refl s
  | place src st sv level => exact KeepsPool.placeOp s src st sv level
  | move src st => exact KeepsPool.moveOp s src st
  | retire src => exact .retireOp s src
  | gateMode src m => exact .of_pool (pool_setGateModeOp s src m)
  | wake => exact .of_pool s.pool_wake

theorem KeepsPool.debouncedChange (s : State) (l : Line) : KeepsPool s (s.debouncedChange l) := by
  have hsettled : KeepsPool s (s.settleLine l) := .of_pool rfl
  unfold State.debouncedChange
  dsimp only
  split
  · exact .refl s
  · split
    · exact hsettled.trans ((KeepsPool.perform _ _).trans (.of_pool (State.pool_recordAction _ _ _)))
    · exact hsettled

theorem KeepsPool.setTimingOp (s : State) (new : Timing) : KeepsPool s (setTimingOp new s) := by
  unfold Machine.setTimingOp
  dsimp only
  split
  · exact .refl s
  · exact (KeepsPool.foldl KeepsPool.debouncedChange allLines _).congr_left rfl

/-! ### The frame -/

theorem State.pool_takeDueChannel (s : State) (src : Source) : (s.takeDueChannel src).pool = s.pool := by
  refine (foldl_pool _ (fun t i => ?_) _).trans (by simp)
  exact State.pool_of_held t (t.held_completeSection src i) (t.queue_completeSection src i)

theorem KeepsPool.takeDueFeed (s : State) (k : FeedKey) : KeepsPool s (s.takeDueFeed k) :=
  (KeepsPool.of_pool (by simp)).trans (.completeFadeOut (((s.completeGlide k).completeGain k).completeFadeIn k) k)

/-- The events due at the start of a frame keep the conditions. -/
theorem KeepsPool.takeDue (s : State) : KeepsPool s s.takeDue := by
  have hchange : KeepsPool s s.switchChange := .of_pool (s.pool_of_held s.held_switchChange s.queue_switchChange)
  have hswitch := hchange.trans
    (.of_pool (State.pool_of_held _ (State.held_switchComplete _) (State.queue_switchComplete _)))
  have hentry := hswitch.trans (.endEntry _)
  have hramp := hentry.trans
    (.of_pool (State.pool_of_held _ (State.held_completeServiceRamp _) (State.queue_completeServiceRamp _)))
  have hchannels := hramp.trans (.of_pool (foldl_pool _ State.pool_takeDueChannel allSources))
  have hfeeds := hchannels.trans (.foldl KeepsPool.takeDueFeed allFeeds _)
  have hmutes := hfeeds.trans (.of_pool (foldl_pool _ State.pool_completeMute allZones))
  have hblock := hmutes.trans (.of_pool (State.pool_evaluateBlock _))
  have hwindow := hblock.trans (.of_pool (State.pool_of_held _ (State.held_endWindow _) (State.queue_endWindow _)))
  exact hwindow.trans (.of_pool (State.pool_of_held _ (State.held_advanceAging _) (State.queue_advanceAging _)))

/-! ### Every command -/

/-- What the owning rule leaves of the conditions is what the rise of chip select leaves. -/
theorem onRequest_keepsPool {act : State → Reply} (i : Instr) (hact : KeepsPool s (act s).2.2) :
    Leaves (KeepsPool s) (onRequest i s act) := by
  unfold onRequest onRise
  dsimp only
  split
  · split
    · exact leaves_next.mpr (.of_pool rfl)
    · exact leaves_next.mpr (hact.trans (.of_pool rfl))
  · exact leaves_next.mpr (.of_pool rfl)

/-- Every command keeps the conditions on the pool. -/
theorem exec_keepsPool (s : State) (i : Instr) : Leaves (KeepsPool s) (exec i s) := by
  cases hw : writesHeld i with
  | false => exact fun t ht => .of_pool (s.pool_of_held (exec_held hw t ht) (exec_queue hw t ht))
  | true =>
    cases i with dsimp only [exec]
    | wake => exact onRequest_keepsPool _ (.of_pool s.pool_wake)
    | setStation station position reach =>
      refine onRequest_keepsPool _ ?_
      split
      · exact KeepsPool.setStationOp s _ _ _
      · exact .refl s
    | clearStation station =>
      refine onRequest_keepsPool _ ?_
      split
      · next st _ =>
        split
        · exact .refl s
        · next hfree =>
          split
          · refine .writeStation fun src p hp ha _ e => absurd ?_ hfree
            exact List.any_eq_true.mpr ⟨src, mem_allSources src, (s.standsAt_iff st src).mpr ⟨p, hp, ha, e.symm⟩⟩
          · exact .refl s
      · exact .refl s
    | setZone payload =>
      refine onRequest_keepsPool _ ?_
      split
      · exact KeepsPool.setZoneOp s _ _
      · exact .refl s
    | setArea area mode service =>
      refine onRequest_keepsPool _ ?_
      split
      · split
        · exact .refl s
        · exact KeepsPool.setAreaOp s _ _
      · exact .refl s
    | setTemperature temperature => exact onRequest_keepsPool _ (KeepsPool.reportTemperature s _)
    | setTiming payload =>
      refine onRequest_keepsPool _ ?_
      split
      · exact KeepsPool.setTimingOp s _
      · exact .refl s
    | place source station service level =>
      refine onRequest_keepsPool _ ?_
      split
      · exact KeepsPool.placeOp s _ _ _ _
      · exact .refl s
    | move source station =>
      refine onRequest_keepsPool _ ?_
      split
      · exact KeepsPool.moveOp s _ _
      · exact .refl s
    | setLevel source level =>
      refine onRequest_keepsPool _ ?_
      split
      · exact KeepsPool.setLevelOp s _ _
      · exact .refl s
    | retire source =>
      refine onRequest_keepsPool _ ?_
      split
      · exact .retireOp s _
      · exact .refl s
    | setSource payload =>
      refine onRequest_keepsPool _ (.of_pool ?_)
      split
      · exact pool_setSourceOp s _ _
      · rfl
    | setGateMode source mode =>
      refine onRequest_keepsPool _ (.of_pool ?_)
      split
      · exact pool_setGateModeOp s _ _
      · rfl
    | getZoneMeters | getCueStatus => exact onRequest_keepsPool _ (.of_pool rfl)
    | setCue payload =>
      refine onRequest_keepsPool _ (.of_pool ?_)
      split <;> rfl
    | powerOnReset cuePins =>
      have hqueue : (s.poweredOn cuePins).QueueOk := State.queueOk_of_empty rfl fun k => by
        simp [State.feed, State.poweredOn, State.reset]
      have hnone (src : Source) : (s.poweredOn cuePins).placement src = none := by
        simp [State.placement, State.poweredOn, State.reset]
      have hfree : (s.poweredOn cuePins).usedCount = 0 := List.countP_eq_zero.mpr fun k _ => by
        simp [State.inUse, State.feed, State.poweredOn, State.reset]
      exact leaves_next.mpr (.of_phases (fun _ => hqueue) fun _ _ _ =>
        ⟨State.placedBut_of_none hnone, hfree.trans_le (Nat.zero_le _)⟩)
    | clearing cuePins =>
      refine leaves_next.mpr ?_
      split
      · split
        · exact .clear s _ _
        · exact .refl s
      · exact .refl s
    | derivation => exact leaves_next.mpr (.derive s)
    | glideComplete source zone => exact leaves_next.mpr (.of_pool (s.pool_completeGlide _))
    | fadeInComplete source zone => exact leaves_next.mpr (.of_pool (s.pool_completeFadeIn _))
    | fadeOutComplete source zone => exact leaves_next.mpr (.completeFadeOut s _)
    | audioFrame input =>
      refine leaves_next.mpr ?_
      split
      · exact (KeepsPool.takeDue s).trans (.of_pool (State.pool_frame _ input))
      · exact .refl s
    | blockEvaluation => exact leaves_next.mpr (.of_pool s.pool_evaluateBlock)
    | holdExpiry source => exact leaves_next.mpr (.of_pool (s.pool_expireHold source))
    | openingComplete source => exact leaves_next.mpr (.of_pool (s.pool_completeOpening source))
    | closingComplete source => exact leaves_next.mpr (.of_pool (s.pool_completeClosing source))
    | trimRampComplete source => exact leaves_next.mpr (.of_pool (s.pool_completeTrim source))
    | gainMovementComplete source zone => exact leaves_next.mpr (.of_pool (s.pool_completeGain _))
    | muteRampComplete zone => exact leaves_next.mpr (.of_pool (s.pool_completeMute zone))
    | debouncedChange line => exact leaves_next.mpr (.debouncedChange s line)
    | standbyEntryComplete => exact leaves_next.mpr (.endEntry s)
    | cuePinSample pins =>
      exact leaves_next.mpr ((KeepsPool.foldl KeepsPool.debouncedChange allLines s).trans (.of_pool rfl))
    | _ => cases hw

/-- Every step keeps the conditions on the pool. -/
theorem step_keepsPool {s t : State} (h : step s = .next t) : KeepsPool s t :=
  step_leaves (.refl s) (fun i _ u hu => (exec_keepsPool _ i u hu).congr_left rfl) h

/-- Settles O54: each operation on the queue and the feeds keeps them in agreement (R21, R22, R46). -/
theorem feedsStayInOrder : Obligations.FeedsStayInOrder := by
  unfold Obligations.FeedsStayInOrder
  exact fun s t h hstep => (step_keepsPool hstep).feeds h

/-- Settles O55: each operation on the placements reconciles those it touches and leaves the others (R18, R26, R35). -/
theorem placementsStayReconciled : Obligations.PlacementsStayReconciled := by
  unfold Obligations.PlacementsStayReconciled
  exact fun s t h hstep => (step_keepsPool hstep).placements h

end Sys2Proof.Machine
end

section
/-! ## The lookups of the Placement Table and the Feed Pool -/

namespace Sys2Proof.Machine

section
variable {s : State} {a b : Byte} (h : s.takesRequest = true)
include h

theorem exec_getPlacement_outOfRange (ha : 16 ≤ a.toNat) :
    exec (.getPlacement a) s = .next (s.respond .outOfRange 0x24 []) := by
  show execGetPlacement a s = _
  exact onRequest_answers rfl h (by simp only [asId_of_le ha, refuse])

theorem exec_getPlacement_absent {src : Source} (ha : a.toNat = src.val) (hp : s.placement src = none) :
    exec (.getPlacement a) s = .next (s.respond .absent 0x24 []) := by
  show execGetPlacement a s = _
  exact onRequest_answers rfl h (by simp only [asId_of_eq src ha, hp, refuse])

/-- GET_PLACEMENT of a placement gives its record and the zones of its feeds (R38). -/
theorem exec_getPlacement {src : Source} (ha : a.toNat = src.val) {p : Placement} (hp : s.placement src = some p) :
    exec (.getPlacement a) s = .next (s.respond .ok 0x24 (placementBytes p (zoneSetOf fun z => s.inUse (src, z)))) := by
  show execGetPlacement a s = _
  exact onRequest_answers rfl h (by simp only [asId_of_eq src ha, hp, readOut])

theorem exec_findAtStation_outOfRange (ha : 32 ≤ a.toNat) :
    exec (.findAtStation a) s = .next (s.respond .outOfRange 0x25 []) := by
  show execFindAtStation a s = _
  exact onRequest_answers rfl h (by simp only [asId_of_le ha, refuse])

theorem exec_findAtStation {st : StationId} (ha : a.toNat = st.val) :
    exec (.findAtStation a) s = .next (s.respond .ok 0x25 (sourceSetBytes (s.standsAt st))) := by
  show execFindAtStation a s = _
  exact onRequest_answers rfl h (by simp only [asId_of_eq st ha, readOut])

theorem exec_getFeed_outOfRange (hab : 16 ≤ a.toNat ∨ 24 ≤ b.toNat) :
    exec (.getFeed a b) s = .next (s.respond .outOfRange 0x26 []) := by
  show execGetFeed a b s = _
  refine onRequest_answers rfl h ?_
  rcases hab with ha | hb
  · simp only [asId_of_le ha, refuse]
  · cases asId 16 a <;> simp only [asId_of_le hb, refuse]

theorem exec_getFeed_absent {src : Source} {z : Zone} (ha : a.toNat = src.val) (hb : b.toNat = z.val)
    (hf : s.feed (src, z) = none) : exec (.getFeed a b) s = .next (s.respond .absent 0x26 []) := by
  show execGetFeed a b s = _
  exact onRequest_answers rfl h (by simp only [asId_of_eq src ha, asId_of_eq z hb, hf, refuse])

/-- GET_FEED of a feed in use gives its record (R40). -/
theorem exec_getFeed {src : Source} {z : Zone} (ha : a.toNat = src.val) (hb : b.toNat = z.val) {f : Feed}
    (hf : s.feed (src, z) = some f) :
    exec (.getFeed a b) s = .next (s.respond .ok 0x26 (feedBytes f (s.queue.contains (src, z)))) := by
  show execGetFeed a b s = _
  exact onRequest_answers rfl h (by simp only [asId_of_eq src ha, asId_of_eq z hb, hf, readOut])

end

theorem State.standsAt_eq_any (s : State) (st : StationId) : s.standsAt st = fun src =>
    (s.placement src).any fun p => p.state == .active && p.station == st := by
  funext src
  unfold State.standsAt
  cases s.placement src <;> rfl

/-- The target, the pending tap, the position and the length of a feed's glide, as GET_FEED reports them (R40). -/
def Feed.glideBytes (f : Feed) : List Byte :=
  tapBytes (f.glide.map (·.target)) ++ tapBytes (f.glide.bind (·.pending)) ++
    natBytes ((f.glide.map (·.position)).getD 0) ++ natBytes ((f.glide.map (·.length)).getD 0)

theorem feedBytes_eq (f : Feed) (queued : Bool) : feedBytes f queued =
    [byteOf f.state.code] ++ tapBytes f.active ++ f.glideBytes ++ natBytes f.state.levelSteps ++ intBytes f.baseGain ++
      [yesNoByte f.limited, yesNoByte queued] := by
  simp only [feedBytes, Feed.glideBytes, List.append_assoc]

theorem FeedState.levelSteps_waiting : FeedState.waiting.levelSteps = 0 := by decide +kernel

theorem FeedState.levelSteps_steady : FeedState.steady.levelSteps = 32768 := by decide +kernel

/-- Settles O12: refusals by operand, ABSENT where there is no record, and the record's bytes else (R38, R39, R40). -/
theorem placementReads : Obligations.PlacementReads := by
  unfold Obligations.PlacementReads
  intro s a b h
  refine ⟨exec_getPlacement_outOfRange h, exec_findAtStation_outOfRange h, exec_getFeed_outOfRange h, fun st ha => ?_,
    fun src ha => ⟨exec_getPlacement_absent h ha, fun p => exec_getPlacement h ha,
      fun z hb => ⟨exec_getFeed_absent h ha hb, fun f hf => ?_⟩⟩⟩
  · rw [exec_findAtStation h ha, State.standsAt_eq_any]
    rfl
  · dsimp only
    rw [exec_getFeed h ha hb hf, List.contains_eq_mem]
    refine congrArg (fun bytes => Host.Outcome.next (s.respond .ok 0x26 bytes)) ((feedBytes_eq f _).trans ?_)
    refine congrArg₂ (· ++ ·) (congrArg₂ (· ++ ·) (congrArg₂ (· ++ ·) (congrArg₂ (· ++ ·)
      (congrArg₂ (· ++ ·) ?_ ?_) ?_) ?_) rfl) rfl
    · cases f.state <;> rfl
    · cases f.active <;> rfl
    · unfold Feed.glideBytes
      cases f.glide with
      | none => rfl
      | some g =>
        obtain ⟨target, pending, position, length⟩ := g
        cases pending <;> rfl
    · cases f.state with
      | waiting => rw [FeedState.levelSteps_waiting]
      | steady => rw [FeedState.levelSteps_steady]
      | fadingIn r => rfl
      | fadingOut r => rfl

end Sys2Proof.Machine
end

section
/-! ## How glides and fades end -/

namespace Sys2Proof.Machine

/-- What the end of an event leaves where the event changed the feeds of the part alone. -/
theorem closeEvent_feedsBecome_of {s base : State} {t : State} {feeds : FeedKey → Option Feed}
    (ht : t = { base with feeds := t.feeds }) (hf : t.feed = feeds) : FeedsBecome s base feeds (s.closeEvent t) := by
  obtain ⟨h1, h2⟩ := State.closeEvent_feedsBecome t s
  rw [hf] at h2
  refine ⟨h1.trans ?_, h2⟩
  rw [ht]

theorem State.feed_setFeed_eq (s : State) (k : FeedKey) (f : Option Feed) :
    (s.setFeed k f).feed = fun j => if j = k then f else s.feed j := by
  funext j
  rw [State.feed_setFeed]
  exact if_congr eq_comm rfl rfl

/-- The end of a fade-out releases the feed, and removes a RETIRING placement whose last feed it was (R25, R36). -/
theorem State.release_removeIfEmpty_eq {s : State} {src : Source} {z : Zone} (hq : (src, z) ∉ s.queue) :
    (s.release (src, z)).removeIfEmpty src = { (if (s.placement src).any (fun p => p.state == .retiring) ∧
      (∀ z', z' ≠ z → s.feed (src, z') = none) then s.setPlacement src none else s) with
        feeds := (s.release (src, z)).feeds } := by
  have hrelease : s.release (src, z) = { s with feeds := (s.release (src, z)).feeds } := by
    have hqueue : s.queue.filter (· ≠ (src, z)) = s.queue :=
      List.filter_eq_self.mpr fun k hk => decide_eq_true fun e => hq (e ▸ hk)
    show ({ s.setFeed (src, z) none with queue := s.queue.filter (· ≠ (src, z)) } : State) = _
    rw [hqueue]
    rfl
  have hretiring : (s.release (src, z)).IsRetiring src ↔
      (s.placement src).any (fun p => p.state == .retiring) = true := by
    simp [State.IsRetiring, Option.any_eq_true]
  have hempty : (s.release (src, z)).hasFeeds src = false ↔ ∀ z', z' ≠ z → s.feed (src, z') = none := by
    rw [Bool.eq_false_iff, ne_eq, State.hasFeeds_iff]
    simp only [State.inUse, State.feed_release, Prod.mk.injEq, true_and, not_exists]
    refine forall_congr' fun z' => ?_
    by_cases hz : z = z'
    · simp [hz]
    · simp [hz, Ne.symm hz]
  rcases (s.release (src, z)).removeIfEmpty_cases src with ⟨e, hheld⟩ | ⟨e, hr, hnone⟩
  · have hc : ¬ ((s.placement src).any (fun p => p.state == .retiring) = true ∧
        ∀ z', z' ≠ z → s.feed (src, z') = none) := fun ⟨hr, hnone⟩ =>
      Bool.false_ne_true ((hempty.mpr hnone).symm.trans (hheld (hretiring.mpr hr)))
    rw [e, if_neg hc]
    exact hrelease
  · rw [e, if_pos ⟨hretiring.mp hr, hempty.mp hnone⟩]
    exact congrArg (fun t : State => t.setPlacement src none) hrelease

/-- Settles O29: a completion acts where its frames have run, on its own feed, and changes nothing before (R25, R36,
R67, R71). -/
theorem glidesAndFadesEnd : Obligations.GlidesAndFadesEnd := by
  unfold Obligations.GlidesAndFadesEnd
  refine ⟨fun s src z f g hf hg => ⟨fun hlt => ?_, fun hle => ⟨_, rfl, ?_⟩⟩,
    fun s src z f r hf => ⟨fun hr hdue => ⟨?_, ?_⟩, fun hr hdue => ⟨_, rfl, ?_⟩, fun hr hdue hq => ⟨_, rfl, ?_⟩⟩⟩
  · refine congrArg Host.Outcome.next (State.completeGlide_still fun f' hf' => ?_)
    cases hf.symm.trans hf'
    simp [Feed.glideDue, hg, hlt]
  · have hdue : f.glideDue = true := by simp [Feed.glideDue, hg, hle]
    simp only [State.completeGlide, hf, hdue, if_true]
    refine closeEvent_feedsBecome_of rfl ((s.feed_setFeed_eq _ _).trans ?_)
    simp only [Feed.glideEnded, hg]
    rfl
  · refine congrArg Host.Outcome.next (State.completeFadeIn_still fun f' r' hf' hr' => ?_)
    cases hf.symm.trans hf'
    rcases hr with hr | hr
    · cases hr.symm.trans hr'
      exact hdue
    · cases hr.symm.trans hr'
  · refine congrArg Host.Outcome.next (State.completeFadeOut_still fun f' r' hf' hr' => ?_)
    cases hf.symm.trans hf'
    rcases hr with hr | hr
    · cases hr.symm.trans hr'
    · cases hr.symm.trans hr'
      exact hdue
  · simp only [State.completeFadeIn, hf, hr, hdue, if_true]
    exact closeEvent_feedsBecome_of rfl (s.feed_setFeed_eq _ _)
  · simp only [State.completeFadeOut, hf, hr, hdue, if_true]
    refine closeEvent_feedsBecome_of ?_ ?_
    · rw [State.release_removeIfEmpty_eq hq]
    · rw [State.release_removeIfEmpty_eq hq]
      exact s.feed_setFeed_eq _ _

end Sys2Proof.Machine
end

section
/-! ## PLACE, MOVE and SET_LEVEL -/

namespace Sys2Proof.Machine

/-! ### Reconciliation and the drive -/

/-- The end of an event that left `base` but for what reconciling the chosen placements does. -/
theorem closeEvent_reconciled_of {before base t : State} {chosen : Source → Bool}
    (ht : t = { base with feeds := t.feeds, queue := base.reconciledQueue chosen })
    (hf : ∀ k, t.feed k = if (base.activeAmong chosen).contains k.1 then base.reconciledFeed k else base.feed k) :
    Reconciled before base chosen (before.closeEvent t) := by
  obtain ⟨h1, h2⟩ := State.closeEvent_feedsBecome t before
  refine ⟨h1.trans ?_, fun k => by rw [h2, hf]⟩
  rw [ht]

/-- A reconciliation and then the start of the source's drive: the drive reads nothing that the reconciliation writes. -/
theorem closeEvent_takeUpDrive_reconcileMany {before written : State} (hq : written.QueueUsed) (chosen : Source → Bool)
    (src : Source) : Reconciled before (written.setGate src (written.drivenGate src)) chosen
      (before.closeEvent ((written.reconcileMany chosen).takeUpDrive src)) := by
  obtain ⟨⟨F, hF⟩, hfeed⟩ := written.reconcileMany_spec chosen hq
  have hdrive : (written.reconcileMany chosen).drivenGate src = written.drivenGate src := by
    rw [hF]
    rfl
  have hbase : (written.setGate src (written.drivenGate src)).reconciledQueue chosen = written.reconciledQueue chosen ∧
      (written.setGate src (written.drivenGate src)).activeAmong chosen = written.activeAmong chosen ∧
      (written.setGate src (written.drivenGate src)).reconciledFeed = written.reconciledFeed ∧
      (written.setGate src (written.drivenGate src)).feed = written.feed := by
    rw [State.setGate_eq]
    exact ⟨rfl, rfl, rfl, rfl⟩
  obtain ⟨hqueue, hactive, hrec, hkept⟩ := hbase
  refine closeEvent_reconciled_of ?_ fun k => ?_
  · rw [hqueue, State.takeUpDrive, hdrive, State.setGate_eq, State.setGate_eq, hF]
  · rw [hactive, hrec, hkept, ← hfeed, State.takeUpDrive, State.setGate_eq]
    rfl

/-! ### PLACE -/

section
variable {s : State} {a b c : Byte} {l : Half} (h : s.takesRequest = true)
include h

theorem exec_place_outOfRange (habc : 16 ≤ a.toNat ∨ 32 ≤ b.toNat ∨ 8 ≤ c.toNat) :
    exec (.place a b c l) s = .next (s.respond .outOfRange 0x20 []) := by
  show execPlace a b c l s = _
  refine onRequest_answers rfl h ?_
  rcases habc with ha | hb | hc
  · simp only [asId_of_le ha, refuse]
  · cases asId 16 a <;> simp only [asId_of_le hb, refuse]
  · cases asId 16 a <;> cases asId 32 b <;> simp only [asId_of_le hc, refuse]

/-- PLACE answers what its operation does (R30). -/
theorem exec_place {src : Source} {st : StationId} {sv : Service} (ha : a.toNat = src.val) (hb : b.toNat = st.val)
    (hc : c.toNat = sv.val) {code : ResultCode} {t : State}
    (ho : placeOp src st sv (max (-40) (min 24 l.toInt)) s = (code, t)) :
    exec (.place a b c l) s = .next (t.respond code 0x20 []) := by
  change placeOp src st sv (asLevel l) s = (code, t) at ho
  show execPlace a b c l s = _
  exact onRequest_answers rfl h (by simp only [asId_of_eq src ha, asId_of_eq st hb, asId_of_eq sv hc, ho, bare])

theorem exec_move_outOfRange (hab : 16 ≤ a.toNat ∨ 32 ≤ b.toNat) :
    exec (.move a b) s = .next (s.respond .outOfRange 0x21 []) := by
  show execMove a b s = _
  refine onRequest_answers rfl h ?_
  rcases hab with ha | hb
  · simp only [asId_of_le ha, refuse]
  · cases asId 16 a <;> simp only [asId_of_le hb, refuse]

/-- MOVE answers what its operation does (R33). -/
theorem exec_move {src : Source} {st : StationId} (ha : a.toNat = src.val) (hb : b.toNat = st.val) {code : ResultCode}
    {t : State} (ho : moveOp src st s = (code, t)) : exec (.move a b) s = .next (t.respond code 0x21 []) := by
  show execMove a b s = _
  exact onRequest_answers rfl h (by simp only [asId_of_eq src ha, asId_of_eq st hb, ho, bare])

theorem exec_setLevel_outOfRange (ha : 16 ≤ a.toNat) :
    exec (.setLevel a l) s = .next (s.respond .outOfRange 0x22 []) := by
  show execSetLevel a l s = _
  exact onRequest_answers rfl h (by simp only [asId_of_le ha, refuse])

/-- SET_LEVEL answers what its operation does (R34). -/
theorem exec_setLevel {src : Source} (ha : a.toNat = src.val) {code : ResultCode} {t : State}
    (ho : setLevelOp src (max (-40) (min 24 l.toInt)) s = (code, t)) :
    exec (.setLevel a l) s = .next (t.respond code 0x22 []) := by
  change setLevelOp src (asLevel l) s = (code, t) at ho
  show execSetLevel a l s = _
  exact onRequest_answers rfl h (by simp only [asId_of_eq src ha, ho, bare])

theorem exec_retire_outOfRange (ha : 16 ≤ a.toNat) : exec (.retire a) s = .next (s.respond .outOfRange 0x23 []) := by
  show execRetire a s = _
  exact onRequest_answers rfl h (by simp only [asId_of_le ha, refuse])

/-- RETIRE answers what its operation does (R35). -/
theorem exec_retire {src : Source} (ha : a.toNat = src.val) {code : ResultCode} {t : State}
    (ho : retireOp src s = (code, t)) : exec (.retire a) s = .next (t.respond code 0x23 []) := by
  show execRetire a s = _
  exact onRequest_answers rfl h (by simp only [asId_of_eq src ha, ho, bare])

end

section
variable {s : State} {src : Source} {st : StationId} {sv : Service} {level : Int}

theorem State.isPlaced_eq_false (h : ∀ p, s.placement src = some p → p.state = .retiring) : s.isPlaced src = false := by
  rw [Bool.eq_false_iff, ne_eq, State.isPlaced_iff]
  rintro ⟨p, hp, ha⟩
  rw [h p hp] at ha
  cases ha

/-- A source with an ACTIVE placement is refused (R30). -/
theorem placeOp_alreadyPlaced (hp : s.isPlaced src = true) : placeOp src st sv level s = (.alreadyPlaced, s) := by
  simp [placeOp, hp]

/-- An absent station is refused (R30). -/
theorem placeOp_absent (hp : s.isPlaced src = false) (hst : (vget s.stations st).present = false) :
    placeOp src st sv level s = (.absent, s) := by
  simp [placeOp, hp, hst]

/-- At a present station a placement is created or revived behind the pool check (R29, R31, R32). -/
theorem placeOp_present (hp : s.isPlaced src = false) (hst : (vget s.stations st).present = true) :
    placeOp src st sv level s =
      let written := s.setPlacement src (some ⟨st, sv, level, .active⟩)
      if s.freeCount < written.newRecords (· == src) then (.poolFull, s)
      else (.ok, s.closeEvent ((written.reconcileMany (· == src)).takeUpDrive src)) := by
  simp only [placeOp, hp, hst, Bool.not_true, Bool.false_eq_true, if_false, afterPoolCheck_eq]

/-- The gate of a source just placed takes up the drive of its mode (R86, R90, R91, R92). -/
theorem State.drivenGate_placed {p : Placement} (ha : p.state = .active) :
    (s.setPlacement src (some p)).drivenGate src =
      if s.service.state = .standby then s.gate src else (vget s.sources src).driven (s.gate src) := by
  have hp : (s.setPlacement src (some p)).isPlaced src = true :=
    (State.isPlaced_iff _ src).mpr ⟨p, State.placement_setPlacement_same s src _, ha⟩
  rw [State.drivenGate_eq, hp]
  rfl

end

/-- Settles O23: each check is one branch of the operation, and what passes them is a reconciliation and the start of the
drive (R26, R30, R31, R32, R86). -/
theorem placeEffects : Obligations.PlaceEffects := by
  unfold Obligations.PlaceEffects
  refine ⟨fun a b c l s h => ⟨exec_place_outOfRange h, fun src st sv ha hb hc => ?_⟩,
    fun a b c l s src st sv h hok ha hb hc hr hst hfits => ?_⟩
  · refine ⟨fun hp => exec_place h ha hb hc (placeOp_alreadyPlaced ((s.isPlaced_iff src).mpr hp)),
      fun hr hst => exec_place h ha hb hc (placeOp_absent (State.isPlaced_eq_false hr) hst),
      fun hr hst hfull => exec_place h ha hb hc ?_⟩
    exact (placeOp_present (State.isPlaced_eq_false hr) hst).trans (if_pos hfull)
  · obtain ⟨-, hused, -⟩ := hok
    refine ⟨_, exec_place h ha hb hc ((placeOp_present (State.isPlaced_eq_false hr) hst).trans
      (if_neg (Nat.not_lt.mpr hfits))), Reconciled.respond ?_ _ _ _⟩
    have hdone := closeEvent_takeUpDrive_reconcileMany (before := s)
      (written := s.setPlacement src (some ⟨st, sv, max (-40) (min 24 l.toInt), .active⟩)) hused (· == src) src
    rwa [State.drivenGate_placed rfl] at hdone

/-! ### MOVE and SET_LEVEL -/

theorem feedsOf_source_filter (src : Source) (P : FeedKey → Bool) :
    (feedsOf (· == src)).filter P = zonesOf src fun z => P (src, z) := by
  have hone : allSources.filter (· == src) = [src] := by
    rw [List.filter_beq, nodup_allSources.count, if_pos (mem_allSources src)]
    rfl
  rw [feedsOf_eq, hone, List.flatMap_singleton, List.filter_map]
  rfl

section
variable {s : State} {src : Source} {st : StationId} {p : Placement} (hp : s.placement src = some p)
include hp

theorem moveOp_retiring (hr : p.state = .retiring) : moveOp src st s = (.retiring, s) := by
  simp [moveOp, hp, hr]

theorem moveOp_absent (ha : p.state = .active) (hst : (vget s.stations st).present = false) :
    moveOp src st s = (.absent, s) := by
  simp [moveOp, hp, ha, hst]

/-- A MOVE to the present station changes nothing (R33). -/
theorem moveOp_same (ha : p.state = .active) (hst : (vget s.stations st).present = true) (he : p.station = st) :
    moveOp src st s = (.ok, s) := by
  simp [moveOp, hp, ha, hst, he]

/-- A MOVE to another present station is pool-checked and reconciles the placement (R29, R33). -/
theorem moveOp_present (ha : p.state = .active) (hst : (vget s.stations st).present = true) (hne : p.station ≠ st) :
    moveOp src st s =
      let written := s.setPlacement src (some { p with station := st })
      if s.freeCount < written.newRecords (· == src) then (.poolFull, s)
      else (.ok, s.closeEvent (written.reconcileMany (· == src))) := by
  simp [moveOp, hp, ha, hst, hne, afterPoolCheck_eq]

theorem setLevelOp_retiring (level : Int) (hr : p.state = .retiring) : setLevelOp src level s = (.retiring, s) := by
  simp [setLevelOp, hp, hr]

theorem setLevelOp_active (level : Int) (ha : p.state = .active) : setLevelOp src level s =
    (.ok, s.closeEvent ((s.setPlacement src (some { p with level := level })).offerAll (feedsOf (· == src)))) := by
  simp [setLevelOp, hp, ha]

end

/-- Settles O24: each check is one branch of its operation; a MOVE that passes is a reconciliation, a SET_LEVEL an offer
of the source's feeds (R26, R33, R34). -/
theorem placementEdits : Obligations.PlacementEdits := by
  unfold Obligations.PlacementEdits
  refine ⟨fun a b s h => ⟨exec_move_outOfRange h, fun src st ha hb => ⟨fun hp => exec_move h ha hb ?_,
    fun p hp => ⟨fun hr => exec_move h ha hb (moveOp_retiring hp hr),
      fun hact hst => exec_move h ha hb (moveOp_absent hp hact hst),
      fun hact hst he => exec_move h ha hb (moveOp_same hp hact hst he),
      fun hact hst hne => ⟨fun hfull => exec_move h ha hb ((moveOp_present hp hact hst hne).trans (if_pos hfull)),
        fun hfits hok => ⟨_, exec_move h ha hb ((moveOp_present hp hact hst hne).trans (if_neg (Nat.not_lt.mpr hfits))),
          ?_⟩⟩⟩⟩⟩,
    fun a l s h => ⟨exec_setLevel_outOfRange h, fun src ha => ⟨fun hp => exec_setLevel h ha ?_,
      fun p hp => ⟨fun hr => exec_setLevel h ha (setLevelOp_retiring hp _ hr),
        fun hact => ⟨_, exec_setLevel h ha (setLevelOp_active hp _ hact), ?_⟩⟩⟩⟩⟩
  · simp [moveOp, hp]
  · obtain ⟨-, hused, -⟩ := hok
    exact (State.closeEvent_reconcileMany (s.setPlacement src (some { p with station := st })) s _ hused).respond _ _ _
  · simp [setLevelOp, hp]
  · have hclose := State.closeEvent_offerAll
      (s.setPlacement src (some { p with level := max (-40) (min 24 l.toInt) })) s _ (nodup_feedsOf (· == src))
    rw [feedsOf_source_filter] at hclose
    exact hclose.respond _ _ _

end Sys2Proof.Machine
end

section
/-! ## RETIRE -/

namespace Sys2Proof.Machine

theorem vset_vset {α : Type} {n : Nat} (v : Vector α n) (i : Fin n) (x y : α) : vset (vset v i x) i y = vset v i y :=
  Vector.set_set ..

/-- What RETIRE leaves of a feed: those of its source dropped, every other as it was (R24, R35). -/
def State.feedAfterRetire (s : State) (src : Source) (k : FeedKey) : Option Feed :=
  if k.1 = src then (s.feed k).bind s.droppedFeed else s.feed k

section
variable {s : State} {src : Source} {p : Placement}

/-- The drops of a RETIRE and the removal of the placement they leave empty (R35, R36). -/
theorem retired_eq (hq : s.QueueUsed) (hr : p.state = .retiring) :
    ((s.setPlacement src (some p)).dropFeeds src).removeIfEmpty src =
      { s.setPlacement src (if allZones.any fun z => (s.feedAfterRetire src (src, z)).isSome then some p else none) with
        feeds := ((s.setPlacement src (some p)).dropFeeds src).feeds
        queue := s.queue.filter fun k => k.1 != src } ∧
    ((s.setPlacement src (some p)).dropFeeds src).feed = s.feedAfterRetire src := by
  obtain ⟨⟨F, hF⟩, hfeed⟩ := (s.setPlacement src (some p)).dropFeeds_spec hq src
  have hfeeds : ((s.setPlacement src (some p)).dropFeeds src).feed = s.feedAfterRetire src := funext hfeed
  have hholds : ((s.setPlacement src (some p)).dropFeeds src).hasFeeds src =
      allZones.any fun z => (s.feedAfterRetire src (src, z)).isSome := by
    unfold State.hasFeeds State.inUse
    rw [hfeeds]
  have hretiring : ((s.setPlacement src (some p)).dropFeeds src).IsRetiring src := by
    refine ⟨p, ?_, hr⟩
    rw [hF]
    exact State.placement_setPlacement_same s src _
  refine ⟨?_, hfeeds⟩
  rw [← hholds]
  rcases ((s.setPlacement src (some p)).dropFeeds src).removeIfEmpty_cases src with ⟨e, hheld⟩ | ⟨e, -, hempty⟩
  · rw [e, hheld hretiring]
    conv_lhs => rw [hF]
    rw [hF]
    rfl
  · rw [e, hempty]
    conv_lhs => rw [hF]
    rw [hF]
    simp only [State.setPlacement, vset_vset, Bool.false_eq_true, if_false]

theorem retireOp_absent (hp : s.placement src = none) : retireOp src s = (.absent, s) := by
  simp [retireOp, hp]

theorem retireOp_retiring (hp : s.placement src = some p) (hr : p.state = .retiring) : retireOp src s = (.ok, s) := by
  simp [retireOp, hp, hr]

/-- RETIRE of an ACTIVE placement: it is RETIRING, its feeds are dropped, it is removed where that leaves none, and the
source's drive starts (R35, R36, R91). -/
theorem retireOp_active (hp : s.placement src = some p) (ha : p.state = .active) : retireOp src s =
    (.ok, s.closeEvent ((((s.setPlacement src (some { p with state := .retiring })).dropFeeds src).removeIfEmpty
      src).takeUpDrive src)) := by
  simp [retireOp, hp, ha, State.dropFeeds]

/-- The gate of a source without an ACTIVE placement is forced shut (R86, R91). -/
theorem State.drivenGate_unplaced (hp : s.isPlaced src = false) : s.drivenGate src =
    if s.service.state = .standby then s.gate src else (vget s.sources src).forcedShut (s.gate src) := by
  rw [State.drivenGate_eq, hp]
  rfl

end

/-- The end of a RETIRE: the feeds of R24, the placement RETIRING or removed, the gate forced shut (R35, R36, R91). -/
theorem closeEvent_retired {s : State} {src : Source} {p : Placement} (hq : s.QueueUsed) (hr : p.state = .retiring) :
    FeedsBecome s { (s.setPlacement src
          (if allZones.any fun z => (s.feedAfterRetire src (src, z)).isSome then some p else none)).setGate src
        (if s.service.state = .standby then s.gate src else (vget s.sources src).forcedShut (s.gate src)) with
        queue := s.queue.filter fun k => k.1 != src }
      (s.feedAfterRetire src)
      (s.closeEvent ((((s.setPlacement src (some p)).dropFeeds src).removeIfEmpty src).takeUpDrive src)) := by
  obtain ⟨hretired, hfeed⟩ := retired_eq (src := src) hq hr
  generalize hplaced : (if allZones.any fun z => (s.feedAfterRetire src (src, z)).isSome then some p else none) = placed
    at hretired ⊢
  generalize (s.setPlacement src (some p)).dropFeeds src = dropped at hretired hfeed ⊢
  have hunplaced : (dropped.removeIfEmpty src).isPlaced src = false := by
    refine State.isPlaced_eq_false fun q hq => ?_
    rw [hretired] at hq
    change (s.setPlacement src placed).placement src = some q at hq
    rw [State.placement_setPlacement_same, ← hplaced] at hq
    split at hq
    · cases hq
      exact hr
    · cases hq
  have hgate : (dropped.removeIfEmpty src).drivenGate src =
      if s.service.state = .standby then s.gate src else (vget s.sources src).forcedShut (s.gate src) := by
    rw [State.drivenGate_unplaced hunplaced, hretired]
    rfl
  refine closeEvent_feedsBecome_of ?_ ?_
  · rw [State.takeUpDrive, hgate, hretired, State.setGate_eq, State.setGate_eq]
  · rw [← hfeed, State.takeUpDrive, hretired, State.setGate_eq]
    rfl

/-- Settles O25: RETIRE is refused, or repeated, or drops the placement's feeds and starts the drive (R24, R35,
R36, R91). -/
theorem retireEffects : Obligations.RetireEffects := by
  unfold Obligations.RetireEffects
  refine fun a s h => ⟨exec_retire_outOfRange h, fun src ha => ⟨fun hp => exec_retire h ha (retireOp_absent hp),
    fun p hp => ⟨fun hr => exec_retire h ha (retireOp_retiring hp hr),
      fun hact hok => ⟨_, exec_retire h ha (retireOp_active hp hact), ?_⟩⟩⟩⟩
  obtain ⟨-, hused, -⟩ := hok
  exact (closeEvent_retired hused rfl).respond _ _ _

end Sys2Proof.Machine
end

section
/-! ## The gains stay current

A feed's smoothing aims at the effective gain it holds (`Feed.Aimed`) all through an event; the end of the event brings
that gain to the one of the moment. So an event that ends with `State.closeEvent` needs the feeds aimed alone, and any
other event leaves what the condition reads: the gates' counted states and the feeds' aims. -/

namespace Sys2Proof.Machine

/-! ### Feeds -/

/-- A feed whose smoothing aims at the effective gain it holds, that of the moment or an earlier one; a WAITING feed has
none (R58, R144). -/
structure Feed.Aimed (f : Feed) : Prop where
  waiting : f.state = .waiting → f.smoothing = none
  target : ∀ sm, f.smoothing = some sm → sm.factor.target = gainFactor sm.effective

/-- A feed whose smoothing, past WAITING, aims at an effective gain (R58, R144). -/
def Feed.AimedAt (f : Feed) (effective : Int) : Prop :=
  (f.state = .waiting → f.smoothing = none) ∧
  (f.state ≠ .waiting → ∃ sm, f.smoothing = some sm ∧ sm.effective = effective ∧
    sm.factor.target = gainFactor sm.effective)

theorem State.gainsOk_iff (s : State) :
    s.GainsOk ↔ ∀ k f, s.feed k = some f → f.AimedAt (s.effectiveGain k.2 f) := Iff.rfl

/-- What the condition on the gains reads of a feed. -/
def Feed.aim (f : Feed) : FeedPhase × Int × Option (Int × Rat) :=
  (f.state.phase, f.baseGain, f.smoothing.map fun sm => (sm.effective, sm.factor.target))

section
variable {f g : Feed}

theorem Feed.AimedAt.aimed {effective : Int} (h : f.AimedAt effective) : f.Aimed := by
  obtain ⟨hwaiting, hpast⟩ := h
  refine ⟨hwaiting, fun sm hsm => ?_⟩
  have hw : f.state ≠ .waiting := fun e => by simp [hwaiting e] at hsm
  obtain ⟨sm', hsm', -, htarget⟩ := hpast hw
  cases hsm.symm.trans hsm'
  exact htarget

theorem Feed.AimedAt.congr {effective : Int} (h : f.AimedAt effective) (ha : g.aim = f.aim) : g.AimedAt effective := by
  obtain ⟨hwaiting, hpast⟩ := h
  obtain ⟨hphase, hrest⟩ := Prod.mk.inj ha
  obtain ⟨-, hsmoothing⟩ := Prod.mk.inj hrest
  have hw : g.state = .waiting ↔ f.state = .waiting := by
    rw [← FeedState.phase_eq_waiting, hphase, FeedState.phase_eq_waiting]
  refine ⟨fun e => ?_, fun e => ?_⟩
  · rw [hwaiting (hw.mp e)] at hsmoothing
    exact Option.map_eq_none_iff.mp hsmoothing
  · obtain ⟨sm, hsm, heffective, htarget⟩ := hpast (mt hw.mpr e)
    rw [hsm] at hsmoothing
    obtain ⟨sm', hsm', he⟩ := Option.map_eq_some_iff.mp hsmoothing
    obtain ⟨he1, he2⟩ := Prod.mk.inj he
    exact ⟨sm', hsm', he1.trans heffective, by rw [he1, he2, htarget]⟩

theorem Feed.aimed_fresh : Feed.fresh.Aimed := ⟨fun _ => rfl, nofun⟩

/-- A feed that keeps its smoothing and does not fall back to WAITING stays aimed. -/
theorem Feed.Aimed.congr (h : f.Aimed) (hsmoothing : g.smoothing = f.smoothing)
    (hwaiting : g.state = .waiting → f.state = .waiting) : g.Aimed :=
  ⟨fun e => hsmoothing.trans (h.waiting (hwaiting e)), fun sm hsm => h.target sm (hsmoothing ▸ hsm)⟩

theorem Feed.baseGain_smoothed (f : Feed) (effective : Int) : (f.smoothed effective).baseGain = f.baseGain := by
  unfold Feed.smoothed
  split
  · rfl
  · rfl
  · split <;> rfl

/-- The smoothing brought to an effective gain aims at it (R144). -/
theorem Feed.Aimed.smoothed (h : f.Aimed) (effective : Int) : (f.smoothed effective).AimedAt effective := by
  unfold Feed.smoothed
  split
  · next hw => exact ⟨fun _ => h.waiting hw, fun hn => absurd hw hn⟩
  · next hw => exact ⟨fun e => absurd e hw, fun _ => ⟨_, rfl, rfl, rfl⟩⟩
  · next sm hsm hw =>
    split
    · next he => exact ⟨fun e => absurd e hw, fun _ => ⟨sm, hsm, he, h.target sm hsm⟩⟩
    · exact ⟨fun e => absurd e hw, fun _ => ⟨_, rfl, rfl, rfl⟩⟩

theorem Feed.Aimed.fadeOut (h : f.Aimed) (fadeTime : Nat) : (f.fadeOut fadeTime).Aimed := h.congr rfl nofun

theorem Feed.Aimed.fadeIn (h : f.Aimed) (fadeTime : Nat) : (f.fadeIn fadeTime).Aimed := h.congr rfl nofun

theorem Feed.Aimed.glideEnded (h : f.Aimed) (glideTime : Nat) : (f.glideEnded glideTime).Aimed := by
  unfold Feed.glideEnded
  split
  · exact h.congr rfl id
  · exact h

theorem Feed.Aimed.atStandby (h : f.Aimed) : f.atStandby.Aimed := by
  refine h.congr rfl fun e => ?_
  cases hs : f.state with
  | waiting => rfl
  | fadingIn r | steady | fadingOut r => simp [Feed.atStandby, hs] at e

/-- A delay applied outside STANDBY touches the state and the taps alone (R65). -/
theorem Feed.applyDelay_frame (f : Feed) (delay : Nat) (timing : Timing) : f.applyDelay delay timing =
    { f.applyDelay delay timing with baseGain := f.baseGain, limited := f.limited, smoothing := f.smoothing } := by
  unfold Feed.applyDelay
  split
  · rfl
  · split <;> rfl
  · split <;> rfl

/-- Beside the state and the taps, a derivation writes the base gain and the limit mark alone (R50, R55, R56). -/
theorem State.derivedFeed_frame (s : State) (k : FeedKey) (f : Feed) (p : Placement) : s.derivedFeed k f p =
    { s.derivedFeed k f p with
      baseGain := baseGainOf (vget s.zones k.2).baseLevel p.level
      limited := isLimited (totalDelay (vget s.stations p.station).position (vget s.zones k.2) s.temperatureInUse)
      smoothing := f.smoothing } := by
  unfold State.derivedFeed
  dsimp only
  split
  · rfl
  · exact Feed.applyDelay_frame _ _ _

theorem State.smoothing_derivedFeed (s : State) (k : FeedKey) (f : Feed) (p : Placement) :
    (s.derivedFeed k f p).smoothing = f.smoothing := by
  rw [s.derivedFeed_frame k f p]

theorem State.limited_derivedFeed (s : State) (k : FeedKey) (f : Feed) (p : Placement) :
    (s.derivedFeed k f p).limited =
      isLimited (totalDelay (vget s.stations p.station).position (vget s.zones k.2) s.temperatureInUse) := by
  rw [s.derivedFeed_frame k f p]

/-- A derivation leaves the smoothing, and the feed is past WAITING (R65, R66). -/
theorem Feed.Aimed.derivedFeed (h : f.Aimed) (s : State) (k : FeedKey) (p : Placement)
    (hout : f.state.isFadingOut = false) : (s.derivedFeed k f p).Aimed := by
  refine h.congr (s.smoothing_derivedFeed k f p) fun e => ?_
  have hsound := s.phase_derivedFeed k p hout
  rw [e] at hsound
  cases hsound

theorem Slide.target_advance (x : Slide) : x.advance.target = x.target := by
  unfold Slide.advance
  split <;> rfl

theorem Feed.aim_advance (f : Feed) : f.advance.aim = f.aim := by
  have hphase : f.advance.state.phase = f.state.phase := by
    cases hs : f.state <;> simp [Feed.advance, hs, FeedState.phase]
  unfold Feed.aim
  rw [hphase]
  simp [Feed.advance, Slide.target_advance, Function.comp_def]

theorem Feed.aim_gainArrived (f : Feed) : f.gainArrived.aim = f.aim := by
  simp [Feed.aim, Feed.gainArrived, Slide.finish, Slide.rest, Function.comp_def]

end

/-! ### What the condition reads of the part -/

section
variable {s t : State}

/-- The counts are a matter of the gates' counted states and the feeds' phases (R57, R95). -/
theorem State.openCount_congr (hgate : ∀ src, (t.gate src).counted = (s.gate src).counted)
    (hphase : ∀ k, t.phase k = s.phase k) (z : Zone) : t.openCount z = s.openCount z := by
  have hcounted (u : State) (src : Source) : u.countsToward z src =
      ((u.gate src).counted && (u.phase (src, z)).any fun phase => phase matches .sounding) := by
    unfold State.countsToward State.phase
    cases u.feed (src, z) with
    | none => rfl
    | some f => cases hs : f.state <;> simp [hs, FeedState.counted, FeedState.phase]
  unfold State.openCount
  congr 1
  funext src
  rw [hcounted, hcounted, hgate, hphase]

/-- An event that leaves the gates' counted states and the feeds' aims keeps the condition. -/
theorem State.GainsOk.congr (h : s.GainsOk) (hgate : ∀ src, (t.gate src).counted = (s.gate src).counted)
    (haim : ∀ k, (t.feed k).map Feed.aim = (s.feed k).map Feed.aim) : t.GainsOk := by
  have hphase (k : FeedKey) : t.phase k = s.phase k := by
    simpa [State.phase, Function.comp_def, Feed.aim] using congrArg (Option.map Prod.fst) (haim k)
  refine t.gainsOk_iff.mpr fun k g hg => ?_
  have hk := haim k
  rw [hg] at hk
  obtain ⟨f, hf, he⟩ := Option.map_eq_some_iff.mp hk.symm
  have hgain : t.effectiveGain k.2 g = s.effectiveGain k.2 f := by
    unfold State.effectiveGain
    rw [State.openCount_congr hgate hphase, show f.baseGain = g.baseGain from congrArg (fun a => a.2.1) he]
  rw [hgain]
  exact (s.gainsOk_iff.mp h k f hf).congr he.symm

theorem State.GainsOk.of_feeds (h : s.GainsOk) (hfeeds : t.feeds = s.feeds)
    (hgate : ∀ src, (t.gate src).counted = (s.gate src).counted) : t.GainsOk :=
  h.congr hgate fun k => by rw [State.feed_congr s hfeeds]

theorem State.GainsOk.of_held (h : s.GainsOk) (e : t.held = s.held) : t.GainsOk :=
  h.of_feeds (congrArg Held.feeds e) fun src => congrArg (fun v : Held => (vget v.channels src).gate.counted) e

end

/-! ### Aimed feeds -/

/-- Every feed's smoothing aims at the effective gain it holds. -/
def State.FeedsAimed (s : State) : Prop := ∀ k f, s.feed k = some f → f.Aimed

section
variable {s : State}

theorem State.GainsOk.aimed (h : s.GainsOk) : s.FeedsAimed := fun k f hf => (s.gainsOk_iff.mp h k f hf).aimed

theorem State.feedsAimed_of_none (hnone : ∀ k, s.feed k = none) : s.FeedsAimed := fun k f hf => by
  simp [hnone] at hf

end

section
variable {s : State} (h : s.FeedsAimed)
include h

theorem State.FeedsAimed.of_feeds {t : State} (hfeeds : t.feeds = s.feeds) : t.FeedsAimed := by
  unfold State.FeedsAimed
  rw [State.feed_congr s hfeeds]
  exact h

/-- The refreshed gains are those of the moment (R58, R95, R144). -/
theorem State.FeedsAimed.refreshGains : s.refreshGains.GainsOk := by
  refine s.refreshGains.gainsOk_iff.mpr fun k g hg => ?_
  rw [State.feed_refreshGains] at hg
  obtain ⟨f, hf, rfl⟩ := Option.map_eq_some_iff.mp hg
  have hgain (e : Int) : s.refreshGains.effectiveGain k.2 (f.smoothed e) = s.effectiveGain k.2 f := by
    unfold State.effectiveGain
    rw [State.openCount_refreshGains, Feed.baseGain_smoothed]
  rw [hgain]
  exact (h k f hf).smoothed _

/-- The end of an event brings every gain to the one of the moment. -/
theorem State.FeedsAimed.closeEvent (before : State) : (before.closeEvent s).GainsOk := by
  unfold State.closeEvent
  dsimp only
  split
  · exact h.refreshGains.of_held (State.held_raise _ _)
  · exact h.refreshGains

theorem State.FeedsAimed.setFeed (k : FeedKey) {f : Option Feed} (hf : ∀ g, f = some g → g.Aimed) :
    (s.setFeed k f).FeedsAimed := by
  intro j g hg
  rw [State.feed_setFeed] at hg
  split at hg
  · exact hf g hg
  · exact h j g hg

theorem State.FeedsAimed.setSomeFeed (k : FeedKey) {f : Feed} (hf : f.Aimed) : (s.setFeed k (some f)).FeedsAimed :=
  h.setFeed k fun _ e => by cases e; exact hf

theorem State.FeedsAimed.release (k : FeedKey) : (s.release k).FeedsAimed :=
  State.FeedsAimed.of_feeds (h.setFeed k (f := none) fun _ e => nomatch e) rfl

theorem State.FeedsAimed.offer (k : FeedKey) : (s.offer k).FeedsAimed :=
  h.of_feeds (congrArg Held.feeds (s.held_offer k))

theorem State.FeedsAimed.offerAll (keys : List FeedKey) : (s.offerAll keys).FeedsAimed :=
  h.of_feeds (congrArg Held.feeds (s.held_offerAll keys))

theorem State.FeedsAimed.setGate (src : Source) (g : Gate) : (s.setGate src g).FeedsAimed := by
  rw [State.setGate_eq]
  exact h.of_feeds rfl

theorem State.FeedsAimed.takeUpDrive (src : Source) : (s.takeUpDrive src).FeedsAimed := h.setGate src _

theorem State.FeedsAimed.foldl_takeUpDrive (l : List Source) : (l.foldl State.takeUpDrive s).FeedsAimed :=
  List.foldlRecOn _ _ (motive := State.FeedsAimed) h fun _ ht src _ => ht.takeUpDrive src

theorem State.FeedsAimed.removeIfEmpty (src : Source) : (s.removeIfEmpty src).FeedsAimed := by
  rcases s.removeIfEmpty_cases src with ⟨e, -⟩ | ⟨e, -⟩
  · rwa [e]
  · rw [e]
    exact h.of_feeds rfl

/-! ### Reconciliation -/

theorem State.FeedsAimed.drop (k : FeedKey) : (s.drop k).FeedsAimed := by
  unfold State.drop
  split
  · exact h
  · next f hf =>
    split
    · exact h.release k
    · exact h
    · split
      · exact h.release k
      · exact (h.setSomeFeed k ((h k f hf).fadeOut _)).of_feeds rfl

theorem State.FeedsAimed.reconcileZone (src : Source) (p : Placement) (z : Zone) :
    (s.reconcileZone src p z).FeedsAimed := by
  unfold State.reconcileZone
  split
  · exact (h.setSomeFeed (src, z) Feed.aimed_fresh).offer _
  · next f _ hf =>
    split
    · exact (h.setSomeFeed (src, z) ((h (src, z) f hf).fadeIn _)).offer _
    · exact h.offer _
  · exact h.drop _

theorem State.FeedsAimed.reconcile (src : Source) : (s.reconcile src).FeedsAimed := by
  unfold State.reconcile
  split
  · split
    · exact List.foldlRecOn _ _ (motive := State.FeedsAimed) h fun t ht z _ => ht.reconcileZone src _ z
    · exact h
  · exact h

theorem State.FeedsAimed.reconcileMany (chosen : Source → Bool) : (s.reconcileMany chosen).FeedsAimed :=
  List.foldlRecOn _ _ (motive := State.FeedsAimed) h fun _ ht src _ => ht.reconcile src

theorem State.FeedsAimed.dropFeeds (src : Source) : (s.dropFeeds src).FeedsAimed :=
  List.foldlRecOn _ _ (motive := State.FeedsAimed) h fun _ ht z _ => ht.drop (src, z)

end

/-! ### Requests -/

section
variable {s : State} (h : s.GainsOk)
include h

/-- A request behind the pool check leaves the part, or ends its event (R29). -/
theorem State.GainsOk.afterPoolCheck {written : State} (hw : written.feeds = s.feeds) (chosen : Source → Bool)
    {finish : State → State} (hf : ∀ t : State, t.FeedsAimed → (finish t).FeedsAimed) :
    (afterPoolCheck s (s.poolChecked written chosen) finish).2.GainsOk := by
  rw [afterPoolCheck_eq]
  split
  · exact h
  · exact (hf _ ((h.aimed.of_feeds hw).reconcileMany chosen)).closeEvent s

theorem State.GainsOk.placeOp (src : Source) (st : StationId) (sv : Service) (level : Int) :
    (placeOp src st sv level s).2.GainsOk := by
  unfold Machine.placeOp
  dsimp only
  split
  · exact h
  · split
    · exact h
    · exact h.afterPoolCheck (by rfl) _ fun t ht => ht.takeUpDrive src

theorem State.GainsOk.moveOp (src : Source) (st : StationId) : (moveOp src st s).2.GainsOk := by
  unfold Machine.moveOp
  dsimp only
  split
  · exact h
  · split
    · exact h
    · split
      · exact h
      · split
        · exact h
        · exact h.afterPoolCheck (by rfl) _ fun _ => id

theorem State.GainsOk.retireOp (src : Source) : (retireOp src s).2.GainsOk := by
  cases hp : s.placement src with
  | none => rwa [retireOp_absent hp]
  | some p =>
    cases hs : p.state with
    | retiring => rwa [retireOp_retiring hp hs]
    | active =>
      rw [retireOp_active hp hs]
      have hmarked : (s.setPlacement src (some { p with state := .retiring })).FeedsAimed := h.aimed.of_feeds rfl
      exact (((hmarked.dropFeeds src).removeIfEmpty src).takeUpDrive src).closeEvent s

theorem State.GainsOk.setLevelOp (src : Source) (level : Int) : (setLevelOp src level s).2.GainsOk := by
  cases hp : s.placement src with
  | none => simpa [Machine.setLevelOp, hp] using h
  | some p =>
    cases hs : p.state with
    | retiring => rwa [setLevelOp_retiring hp level hs]
    | active =>
      rw [setLevelOp_active hp level hs]
      have hwritten : (s.setPlacement src (some { p with level := level })).FeedsAimed := h.aimed.of_feeds rfl
      exact (hwritten.offerAll _).closeEvent s

theorem State.GainsOk.setStationOp (st : StationId) (position : Point) (reach : ZoneSet) :
    (setStationOp st position reach s).2.GainsOk := by
  have hwritten (r : Station) : (s.writeStation st r).GainsOk := h.of_feeds rfl fun _ => rfl
  unfold Machine.setStationOp
  dsimp only
  split
  · exact hwritten _
  · split
    · exact h.afterPoolCheck (by rfl) _ fun _ => id
    · split
      · exact ((hwritten _).aimed.offerAll _).closeEvent s
      · exact h

theorem State.GainsOk.setZoneOp (z : Zone) (r : ZoneRecord) : (setZoneOp z r s).2.GainsOk := by
  have hwritten : (s.writeZone z r).GainsOk := h.of_feeds rfl fun _ => rfl
  unfold Machine.setZoneOp
  dsimp only
  split
  · exact h.afterPoolCheck (by rfl) _ fun _ => id
  · split
    · exact (hwritten.aimed.offerAll _).closeEvent s
    · exact hwritten

theorem State.GainsOk.setAreaOp (a : AreaId) (mode : AreaMode) : (setAreaOp a mode s).2.GainsOk := by
  unfold Machine.setAreaOp
  split
  · exact h
  · exact h.afterPoolCheck (by rfl) _ fun _ => id

theorem State.GainsOk.reportTemperature (t : Int) : (reportTemperature t s).GainsOk := by
  unfold Machine.reportTemperature
  dsimp only
  split
  · have hadopted : ({ s with reportedTemperature := t, temperatureInUse := t } : State).FeedsAimed :=
      h.aimed.of_feeds rfl
    exact (hadopted.offerAll _).closeEvent s
  · exact h.of_feeds rfl fun _ => rfl

/-- A written source record reloads a hold timer at most, and the gate stays counted (R94). -/
theorem State.GainsOk.setSourceOp (src : Source) (r : SourceRecord) : (setSourceOp src r s).GainsOk := by
  have hcounted (c : Channel) (old : SourceRecord) : (c.takeSettings old r).gate.counted = c.gate.counted := by
    unfold Channel.takeSettings
    cases c.gate with
    | hold timer =>
      dsimp only
      split <;> rfl
    | closed | opening ramp turned | opened | closing ramp => rfl
  have hset : (({ s with sources := vset s.sources src r } : State).setChannel src
      ((vget s.channels src).takeSettings (vget s.sources src) r)).GainsOk := by
    refine h.of_feeds rfl fun x => ?_
    rw [State.gate_setChannel]
    split
    · next e => rw [hcounted, e]; rfl
    · rfl
  unfold Machine.setSourceOp
  dsimp only
  split
  · exact hset
  · exact hset.of_held (State.held_setDetector _ _ _)

theorem State.GainsOk.setGateModeOp (src : Source) (m : GateMode) : (setGateModeOp src m s).2.GainsOk := by
  have hstored : (s.storeGateMode src m).GainsOk := h.of_feeds rfl fun _ => rfl
  unfold Machine.setGateModeOp
  dsimp only
  split
  · exact h
  · split
    · exact (hstored.aimed.takeUpDrive src).closeEvent s
    · exact hstored

theorem State.GainsOk.wake : s.wake.GainsOk := by
  have hset (st : ServiceState) (r : Ramp) : (s.setService st r).GainsOk := h.of_held (State.held_setService _ _ _)
  unfold State.wake
  dsimp only
  split
  · exact h
  · exact hset _ _
  · exact ((hset _ _).aimed.foldl_takeUpDrive _).closeEvent s

/-! ### Cue Lines -/

theorem State.GainsOk.perform (a : CueAction) : (a.perform s).2.GainsOk := by
  cases a with
  | none => exact h
  | place src st sv level => exact h.placeOp src st sv level
  | move src st => exact h.moveOp src st
  | retire src => exact h.retireOp src
  | gateMode src m => exact h.setGateModeOp src m
  | wake => exact h.wake

theorem State.GainsOk.recordAction (l : Line) (result : ResultCode) : (s.recordAction l result).GainsOk := by
  unfold State.recordAction
  dsimp only
  split <;> exact h.of_feeds rfl fun _ => rfl

theorem State.GainsOk.debouncedChange (l : Line) : (s.debouncedChange l).GainsOk := by
  have hsettled : (s.settleLine l).GainsOk := h.of_feeds rfl fun _ => rfl
  unfold State.debouncedChange
  dsimp only
  split
  · exact h
  · split
    · exact (hsettled.perform _).recordAction l _
    · exact hsettled

theorem State.GainsOk.foldl_debouncedChange (l : List Line) : (l.foldl State.debouncedChange s).GainsOk :=
  List.foldlRecOn _ _ (motive := State.GainsOk) h fun _ ht line _ => ht.debouncedChange line

theorem State.GainsOk.setTimingOp (new : Timing) : (setTimingOp new s).GainsOk := by
  unfold Machine.setTimingOp
  dsimp only
  split
  · exact h
  · generalize (if new.notchDecay < s.timing.notchDecay then _ else s.notches) = notches
    have hwritten : ({ s with timing := new, notches := notches } : State).GainsOk := h.of_feeds rfl fun _ => rfl
    exact hwritten.foldl_debouncedChange _

/-! ### Events -/

/-- A derivation ends with the gains brought to the count after it (R49; DEDUCED, log 12). -/
theorem State.GainsOk.derive : s.derive.GainsOk := by
  unfold State.derive
  split
  · exact h
  · next k rest _ =>
    have hpop : ({ s with queue := rest } : State).FeedsAimed := h.aimed.of_feeds rfl
    dsimp only
    split
    · next f p hf _ =>
      refine State.FeedsAimed.closeEvent ?_ s
      split
      · exact hpop
      · next hout =>
        have hset := hpop.setSomeFeed k
          ((h.aimed k f hf).derivedFeed { s with queue := rest } k p (Bool.eq_false_iff.mpr hout))
        unfold State.deriveFeed
        dsimp only
        split
        · exact hset.of_feeds rfl
        · exact hset
    · exact hpop.closeEvent s

theorem State.GainsOk.completeGlide (k : FeedKey) : (s.completeGlide k).GainsOk := by
  unfold State.completeGlide
  split
  · next f hf =>
    split
    · exact (h.aimed.setSomeFeed k ((h.aimed k f hf).glideEnded _)).closeEvent s
    · exact h
  · exact h

theorem State.GainsOk.completeFadeIn (k : FeedKey) : (s.completeFadeIn k).GainsOk := by
  unfold State.completeFadeIn
  split
  · next f hf =>
    split
    · split
      · refine (h.aimed.setSomeFeed k ?_).closeEvent s
        exact (h.aimed k f hf).congr rfl nofun
      · exact h
    · exact h
  · exact h

theorem State.GainsOk.completeFadeOut (k : FeedKey) : (s.completeFadeOut k).GainsOk := by
  unfold State.completeFadeOut
  split
  · split
    · split
      · exact ((h.aimed.release k).removeIfEmpty k.1).closeEvent s
      · exact h
    · exact h
  · exact h

/-- A gain movement that ends rests at the factor it aimed at (R144). -/
theorem State.GainsOk.completeGain (k : FeedKey) : (s.completeGain k).GainsOk := by
  unfold State.completeGain
  split
  · next f hf =>
    split
    · refine h.congr (fun _ => rfl) fun j => ?_
      rw [State.feed_setFeed]
      split
      · next e => simp [← e, hf, Feed.aim_gainArrived]
      · rfl
    · exact h
  · exact h

theorem State.GainsOk.evaluateBlock : s.evaluateBlock.GainsOk := by
  unfold State.evaluateBlock
  split
  · obtain ⟨C, D, e, -⟩ := s.foldl_evaluateChannel
    rw [e]
    refine State.FeedsAimed.closeEvent ?_ s
    exact h.aimed.of_feeds rfl
  · exact h

theorem State.GainsOk.expireHold (src : Source) : (s.expireHold src).GainsOk := by
  unfold State.expireHold
  dsimp only
  split
  · refine State.FeedsAimed.closeEvent (State.FeedsAimed.setGate ?_ src _) s
    exact h.aimed.of_feeds rfl
  · exact h

theorem State.GainsOk.completeOpening (src : Source) : (s.completeOpening src).GainsOk := by
  unfold State.completeOpening
  split
  · split
    · exact (h.aimed.setGate src _).closeEvent s
    · exact h
  · exact h

theorem State.GainsOk.completeClosing (src : Source) : (s.completeClosing src).GainsOk := by
  unfold State.completeClosing
  split
  · split
    · exact (h.aimed.setGate src _).closeEvent s
    · exact h
  · exact h

theorem State.GainsOk.completeTrim (src : Source) : (s.completeTrim src).GainsOk := by
  unfold State.completeTrim
  dsimp only
  split
  · refine h.of_feeds rfl fun x => ?_
    rw [State.gate_setChannel]
    split
    · next e => rw [← e]; rfl
    · rfl
  · exact h

theorem State.GainsOk.completeMute (z : Zone) : (s.completeMute z).GainsOk := by
  unfold State.completeMute
  dsimp only
  split
  · exact h.of_feeds rfl fun _ => rfl
  · exact h

theorem State.GainsOk.endEntry : s.endEntry.GainsOk := by
  unfold State.endEntry
  split
  · have hentered : s.entered.FeedsAimed := by
      intro k g hg
      rw [State.feed_entered] at hg
      obtain ⟨f, hf, hg⟩ := Option.bind_eq_some_iff.mp hg
      split at hg
      · cases hg
      · cases hg
        exact (h.aimed k f hf).atStandby
    rw [State.completeEntry_eq]
    exact (List.foldlRecOn allSources State.removeIfEmpty (motive := State.FeedsAimed) hentered
      fun _ ht src _ => ht.removeIfEmpty src).closeEvent s
  · exact h

omit h in
/-- The feeds rebuilt after a clearing are new, and their gains are refreshed (R44, R167). -/
theorem State.gainsOk_clear (s : State) (cause : RestartCause) (pins : Byte) : (s.clear cause pins).GainsOk :=
  ((State.FeedsAimed.reconcileMany (State.feedsAimed_of_none (s.feed_cleared cause pins)) _).foldl_takeUpDrive
    _).refreshGains

/-! ### The frame -/

theorem State.GainsOk.takeDueChannel (src : Source) : (s.takeDueChannel src).GainsOk :=
  State.GainsOk.of_held (((h.completeOpening src).completeClosing src).completeTrim src)
    (foldl_held _ (fun t i => t.held_completeSection src i) _)

theorem State.GainsOk.takeDueFeed (k : FeedKey) : (s.takeDueFeed k).GainsOk :=
  (((h.completeGlide k).completeGain k).completeFadeIn k).completeFadeOut k

theorem State.GainsOk.takeDue : s.takeDue.GainsOk := by
  have hswitch : s.switchChange.switchComplete.GainsOk :=
    h.of_held (by rw [State.held_switchComplete, State.held_switchChange])
  have hramp := State.GainsOk.of_held hswitch.endEntry (State.held_completeServiceRamp _)
  have hchannels := List.foldlRecOn allSources State.takeDueChannel (motive := State.GainsOk) hramp
    fun _ ht src _ => ht.takeDueChannel src
  have hfeeds := List.foldlRecOn allFeeds State.takeDueFeed (motive := State.GainsOk) hchannels
    fun _ ht k _ => ht.takeDueFeed k
  have hmutes := List.foldlRecOn allZones State.completeMute (motive := State.GainsOk) hfeeds
    fun _ ht z _ => ht.completeMute z
  exact (hmutes.evaluateBlock.of_held (State.held_endWindow _)).of_held (State.held_advanceAging _)

omit h in
theorem Gate.counted_advance (g : Gate) : g.advance.counted = g.counted := by
  cases g <;> rfl

/-- One frame moves factors and ramps within their states (R64, R70, R86, R144). -/
theorem State.GainsOk.frame (input : Vector Sample 16) : (s.frame input).GainsOk := by
  obtain ⟨portA, portB, e⟩ := s.frame_eq input
  rw [e]
  refine h.congr (fun src => ?_) fun k => ?_
  · have hgate : (s.advanceFrame.runChannels input).gate src = (s.gate src).advance := by
      simp [State.gate, State.runChannels, State.runChannel, State.advanceFrame]
    exact (congrArg Gate.counted hgate).trans (Gate.counted_advance _)
  · have hfeed : s.advanceFrame.feed k = (s.feed k).map Feed.advance := by simp [State.feed, State.advanceFrame]
    show (s.advanceFrame.feed k).map _ = _
    rw [hfeed, Option.map_map]
    exact congrArg (Option.map · (s.feed k)) (funext Feed.aim_advance)

/-! ### Every command -/

theorem State.GainsOk.onRequest_leaves {act : State → Reply} (i : Instr) (hact : (act s).2.2.GainsOk) :
    Leaves State.GainsOk (onRequest i s act) :=
  Machine.onRequest_leaves (fun _ _ e hs => hs.of_held e) i h hact

/-- Every command keeps the gains current. -/
theorem State.GainsOk.exec_leaves (i : Instr) : Leaves State.GainsOk (exec i s) := by
  cases hw : writesHeld i with
  | false => exact fun t ht => h.of_held (exec_held hw t ht)
  | true =>
    cases i with dsimp only [exec]
    | wake => exact h.onRequest_leaves _ h.wake
    | setStation station position reach =>
      refine h.onRequest_leaves _ ?_
      split
      · exact h.setStationOp _ _ _
      · exact h
    | clearStation station =>
      refine h.onRequest_leaves _ ?_
      split
      · split
        · exact h
        · split
          · exact h.of_feeds rfl fun _ => rfl
          · exact h
      · exact h
    | setZone payload =>
      refine h.onRequest_leaves _ ?_
      split
      · exact h.setZoneOp _ _
      · exact h
    | setArea area mode service =>
      refine h.onRequest_leaves _ ?_
      split
      · split
        · exact h
        · exact h.setAreaOp _ _
      · exact h
    | setTemperature temperature => exact h.onRequest_leaves _ (h.reportTemperature _)
    | setTiming payload =>
      refine h.onRequest_leaves _ ?_
      split
      · exact h.setTimingOp _
      · exact h
    | place source station service level =>
      refine h.onRequest_leaves _ ?_
      split
      · exact h.placeOp _ _ _ _
      · exact h
    | move source station =>
      refine h.onRequest_leaves _ ?_
      split
      · exact h.moveOp _ _
      · exact h
    | setLevel source level =>
      refine h.onRequest_leaves _ ?_
      split
      · exact h.setLevelOp _ _
      · exact h
    | retire source =>
      refine h.onRequest_leaves _ ?_
      split
      · exact h.retireOp _
      · exact h
    | setSource payload =>
      refine h.onRequest_leaves _ ?_
      split
      · exact h.setSourceOp _ _
      · exact h
    | setGateMode source mode =>
      refine h.onRequest_leaves _ ?_
      split
      · exact h.setGateModeOp _ _
      · exact h
    | getZoneMeters | getCueStatus => exact h.onRequest_leaves _ (h.of_feeds rfl fun _ => rfl)
    | setCue payload =>
      refine h.onRequest_leaves _ ?_
      dsimp only
      split
      · exact h.of_feeds rfl fun _ => rfl
      · exact h
    | powerOnReset cuePins =>
      have hnone (k : FeedKey) : (s.poweredOn cuePins).feed k = none := by
        simp [State.feed, State.poweredOn, State.reset]
      exact leaves_next.mpr fun k f hf => by cases (hnone k).symm.trans hf
    | clearing cuePins =>
      refine leaves_next.mpr ?_
      split
      · split
        · exact s.gainsOk_clear _ _
        · exact h
      · exact h
    | derivation => exact leaves_next.mpr h.derive
    | glideComplete source zone => exact leaves_next.mpr (h.completeGlide _)
    | fadeInComplete source zone => exact leaves_next.mpr (h.completeFadeIn _)
    | fadeOutComplete source zone => exact leaves_next.mpr (h.completeFadeOut _)
    | audioFrame input =>
      refine leaves_next.mpr ?_
      split
      · exact h.takeDue.frame input
      · exact h
    | blockEvaluation => exact leaves_next.mpr h.evaluateBlock
    | holdExpiry source => exact leaves_next.mpr (h.expireHold source)
    | openingComplete source => exact leaves_next.mpr (h.completeOpening source)
    | closingComplete source => exact leaves_next.mpr (h.completeClosing source)
    | trimRampComplete source => exact leaves_next.mpr (h.completeTrim source)
    | gainMovementComplete source zone => exact leaves_next.mpr (h.completeGain _)
    | muteRampComplete zone => exact leaves_next.mpr (h.completeMute zone)
    | debouncedChange line => exact leaves_next.mpr (h.debouncedChange line)
    | standbyEntryComplete => exact leaves_next.mpr h.endEntry
    | cuePinSample pins =>
      exact leaves_next.mpr ((h.foldl_debouncedChange allLines).of_feeds rfl fun _ => rfl)
    | _ => cases hw

end

/-- Settles O56: every event ends with the gains of its moment, or changes neither a count nor a gain (R58, R95,
R144). -/
theorem gainsStayCurrent : Obligations.GainsStayCurrent := by
  unfold Obligations.GainsStayCurrent
  intro s t h hstep
  refine step_leaves h (fun i rest => ?_) hstep
  have hpopped : ({ s with pending := rest } : State).GainsOk := h.of_feeds rfl fun _ => rfl
  exact hpopped.exec_leaves i

end Sys2Proof.Machine
end

section
/-! ## Temperature and derivations -/

namespace Sys2Proof.Machine

/-! ### SET_TEMPERATURE -/

/-- A report is adopted where it lies the deadband from the temperature in use, or, at deadband 0, where it
differs (R60). -/
theorem adopts_iff (deadband : Nat) (reported inUse : Int) : adopts deadband reported inUse = true ↔
    (0 < deadband ∧ deadband ≤ (reported - inUse).natAbs) ∨ (deadband = 0 ∧ 0 < (reported - inUse).natAbs) := by
  unfold adopts
  by_cases h : deadband = 0
  · simp [h]
  · simp [h, Nat.pos_of_ne_zero h]

section
variable {s : State} {t : Int}

theorem reportTemperature_held (h : adopts s.timing.deadband t s.temperatureInUse = false) :
    reportTemperature t s = { s with reportedTemperature := t } := by
  simp [reportTemperature, h]

theorem reportTemperature_adopted (h : adopts s.timing.deadband t s.temperatureInUse = true) : reportTemperature t s =
    s.closeEvent (({ s with reportedTemperature := t, temperatureInUse := t } : State).offerAll allFeeds) := by
  simp [reportTemperature, h]

end

/-- SET_TEMPERATURE answers with the clamped report taken (R59). -/
theorem exec_setTemperature {s : State} (h : s.takesRequest = true) (temperature : Half) :
    exec (.setTemperature temperature) s =
      .next ((reportTemperature (max (-100) (min 400 temperature.toInt)) s).respond .ok 0x18 []) := by
  show execSetTemperature temperature s = _
  exact onRequest_answers rfl h rfl

/-- The feeds of a choice, ascending by source and then by zone. -/
theorem allFeeds_filter (P : FeedKey → Bool) :
    allFeeds.filter P = allSources.flatMap fun src => zonesOf src fun z => P (src, z) := by
  unfold allFeeds zonesOf
  rw [List.filter_flatMap]
  refine congrArg (allSources.flatMap ·) (funext fun src => ?_)
  rw [List.filter_map]
  rfl

/-- Settles O20: a report that is not adopted is stored alone; one that is adopted is stored in both and offers
every feed that is not FADING_OUT (R59, R60). -/
theorem temperatureReported : Obligations.TemperatureReported := by
  unfold Obligations.TemperatureReported
  intro temperature s h
  rw [exec_setTemperature h]
  generalize max (-100) (min 400 temperature.toInt) = report
  refine ⟨fun hheld => ?_, fun hadopted => ⟨_, rfl, ?_⟩⟩
  · rw [reportTemperature_held (Bool.eq_false_iff.mpr fun e => hheld ((adopts_iff _ _ _).mp e))]
  · rw [reportTemperature_adopted ((adopts_iff _ _ _).mpr hadopted)]
    have hclose := State.closeEvent_offerAll
      ({ s with reportedTemperature := report, temperatureInUse := report } : State) s allFeeds nodup_allFeeds
    rw [allFeeds_filter] at hclose
    exact hclose.respond _ _ _

/-! ### Derivations -/

section
variable {f : Feed} (delay : Nat) (timing : Timing)

/-- A feed that does not glide starts a glide where the delay is not its active tap (R65). -/
theorem Feed.applyDelay_of_still (hw : f.state ≠ .waiting) (hg : f.glide = none) : f.applyDelay delay timing =
    if f.active = some delay then f else { f with glide := some (Glide.start delay timing.glideTime) } := by
  unfold Feed.applyDelay
  split
  · next e => exact absurd e hw
  · rfl
  · next hg' _ => cases hg.symm.trans hg'

/-- A gliding feed keeps the delay as its pending tap where it is not the target (R65). -/
theorem Feed.applyDelay_of_gliding {g : Glide} (hw : f.state ≠ .waiting) (hg : f.glide = some g) :
    f.applyDelay delay timing =
      { f with glide := some { g with pending := if delay = g.target then none else some delay } } := by
  unfold Feed.applyDelay
  split
  · next e => exact absurd e hw
  · next hg' _ => cases hg.symm.trans hg'
  · next hg' _ =>
    cases hg.symm.trans hg'
    split <;> rfl

/-- A WAITING feed takes the delay as its active tap and starts its fade-in (R65, R71). -/
theorem Feed.applyDelay_of_waiting (hw : f.state = .waiting) :
    f.applyDelay delay timing =
      { f with active := some delay, state := .fadingIn ⟨0, 1 / (48 * timing.fadeTime), false⟩ } := by
  simp only [Feed.applyDelay, hw]
  rfl

end

theorem Feed.applyDelayStandby_eq (f : Feed) (delay : Nat) : f.applyDelayStandby delay =
    { f with active := some delay, glide := none, state := if f.state = .waiting then .steady else f.state } := by
  unfold Feed.applyDelayStandby
  cases hs : f.state <;> simp

/-- A derivation writes its feed, and LIMITED where the feed's mark goes from no to yes (R50, R55). -/
theorem State.deriveFeed_eq (s : State) (k : FeedKey) (f : Feed) (p : Placement) : s.deriveFeed k f p =
    { s.setFeed k (some (s.derivedFeed k f p)) with
      link := { s.link with
        flags := if 30000 < totalDelay (vget s.stations p.station).position (vget s.zones k.2) s.temperatureInUse ∧
            f.limited = false then s.link.flags ||| EventFlag.limited.bit else s.link.flags } } := by
  unfold State.deriveFeed
  dsimp only
  rw [s.limited_derivedFeed]
  simp only [isLimited, Bool.and_eq_true, decide_eq_true_eq, Bool.not_eq_true']
  split <;> rfl

/-- The Alignment Unit takes the feed at the head of the queue (R49). -/
theorem State.derive_eq {s : State} {k : FeedKey} {rest : List FeedKey} {f : Feed} {p : Placement}
    (hq : s.queue = k :: rest) (hf : s.feed k = some f) (hout : f.state.isFadingOut = false)
    (hp : s.placement k.1 = some p) :
    s.derive = s.closeEvent (({ s with queue := rest } : State).deriveFeed k f p) := by
  simp [State.derive, hq, hf, hp, hout]

/-- Settles O26: the head of the queue is derived from the values of the moment, the tables of R65 and R66 apply its
delay, and the event's end brings the gains (R46, R49, R50, R55, R56, R65, R66). -/
theorem derivationResult : Obligations.DerivationResult := by
  unfold Obligations.DerivationResult
  intro s k rest f p hq hf hout hp zone total delay written start derived raised
  have hmodel : ({ s with queue := rest } : State).derivedFeed k f p =
      if s.service.state = .standby then written.applyDelayStandby delay else written.applyDelay delay s.timing := rfl
  have hderived : ({ s with queue := rest } : State).derivedFeed k f p = derived := by
    rw [hmodel]
    by_cases hs : s.service.state = .standby
    · rw [if_pos hs, Feed.applyDelayStandby_eq]
      simp only [derived, hs, if_true, written]
    · rw [if_neg hs]
      by_cases hw : f.state = .waiting
      · rw [Feed.applyDelay_of_waiting (f := written) delay s.timing hw]
        simp only [derived, hs, hw, if_false, if_true]
      · cases hg : f.glide with
        | none =>
          rw [Feed.applyDelay_of_still (f := written) delay s.timing hw hg]
          simp only [derived, hs, hw, hg, if_false]
          rfl
        | some g =>
          rw [Feed.applyDelay_of_gliding (f := written) delay s.timing hw hg]
          simp only [derived, hs, hw, hg, if_false]
  refine ⟨_, congrArg Host.Outcome.next (State.derive_eq hq hf hout hp), ?_⟩
  rw [State.deriveFeed_eq, hderived]
  exact closeEvent_feedsBecome_of rfl (s.feed_setFeed_eq k _)

end Sys2Proof.Machine
end

section
/-! ## Distances, the speed of sound and delays -/

namespace Sys2Proof.Machine

/-- The whole root of a number below 4^bits is the floor of its exact root. -/
theorem wholeRoot_spec {bits n : Nat} (h : n < 2 ^ bits * 2 ^ bits) :
    wholeRoot bits n ^ 2 ≤ n ∧ n < (wholeRoot bits n + 1) ^ 2 := by
  have hroot := largestFitting_spec (fits := fun r => decide (r * r ≤ n)) bits 0 (by simp) (by simpa using h)
  simpa [wholeRoot, pow_two] using hroot

/-- Two coordinates differ by less than 2^16, and so the square of their difference is bounded. -/
theorem sq_sub_le {a b : Int} (ha : -32768 ≤ a ∧ a ≤ 32767) (hb : -32768 ≤ b ∧ b ≤ 32767) :
    (b - a) ^ 2 ≤ 65535 ^ 2 :=
  sq_le_sq' (by omega) (by omega)

/-- The distance is the floor of the exact root of the sum of the squares (R51, R52). -/
theorem distance_spec {a b : Point} (hsum : (b.x - a.x) ^ 2 + (b.y - a.y) ^ 2 + (b.z - a.z) ^ 2 ≤ 3 * 65535 ^ 2) :
    (distance a b : Int) ^ 2 ≤ (b.x - a.x) ^ 2 + (b.y - a.y) ^ 2 + (b.z - a.z) ^ 2 ∧
      (b.x - a.x) ^ 2 + (b.y - a.y) ^ 2 + (b.z - a.z) ^ 2 < ((distance a b : Int) + 1) ^ 2 := by
  obtain ⟨n, hn⟩ : ∃ n : Nat, (b.x - a.x) ^ 2 + (b.y - a.y) ^ 2 + (b.z - a.z) ^ 2 = n :=
    Int.eq_ofNat_of_zero_le (by positivity)
  have hroot := wholeRoot_spec (bits := 18) (n := n) (by omega)
  unfold distance floorRoot
  rw [hn, Int.toNat_natCast]
  exact_mod_cast hroot

/-- The tenths of 606 × T, truncated toward zero (R53). -/
theorem speedOfSound_spec (t : Int) :
    (0 ≤ t → 10 * (speedOfSound t - 331300) ≤ 606 * t ∧ 606 * t < 10 * (speedOfSound t - 331300) + 10) ∧
    (t < 0 → 606 * t ≤ 10 * (speedOfSound t - 331300) ∧ 10 * (speedOfSound t - 331300) < 606 * t + 10) := by
  unfold speedOfSound
  refine ⟨fun h => ?_, fun h => ?_⟩
  · rw [Int.tdiv_eq_ediv_of_nonneg (by omega)]
    omega
  · obtain ⟨u, rfl⟩ : ∃ u, t = -u := ⟨-t, by omega⟩
    rw [show 606 * -u = -(606 * u) by ring, Int.neg_tdiv, Int.tdiv_eq_ediv_of_nonneg (by omega)]
    omega

theorem speedOfSound_bounds {t : Int} (hlo : -100 ≤ t) (hhi : t ≤ 400) :
    325240 ≤ speedOfSound t ∧ speedOfSound t ≤ 355540 := by
  obtain ⟨hpos, hneg⟩ := speedOfSound_spec t
  rcases lt_or_ge t 0 with h | h
  · have := hneg h
    omega
  · have := hpos h
    omega

theorem pathSamples_of_nonpos {delta : Int} (h : delta ≤ 0) (c : Int) : pathSamples delta c = 0 := by
  simp [pathSamples, h]

/-- The path samples are the exact quotient rounded half up (R54). -/
theorem pathSamples_spec {delta c : Int} (hdelta : 0 < delta) (hc : 0 < c) :
    2 * (delta * 480000) < (2 * pathSamples delta c + 1) * c ∧
      (2 * pathSamples delta c - 1) * c ≤ 2 * (delta * 480000) := by
  unfold pathSamples
  rw [if_neg (not_le.mpr hdelta)]
  dsimp only
  have hdiv := Int.mul_ediv_add_emod (delta * 480000) c
  have hlt := Int.emod_lt_of_pos (delta * 480000) hc
  have hnonneg := Int.emod_nonneg (delta * 480000) hc.ne'
  generalize delta * 480000 / c = q at hdiv ⊢
  generalize delta * 480000 % c = r at hdiv hlt hnonneg ⊢
  rw [← hdiv]
  split
  · constructor <;> linarith
  · constructor <;> linarith

/-- At the greatest distance and the lowest speed the quotient is below 167 520.5. -/
theorem pathSamples_le {delta c : Int} (hdelta : delta ≤ 113509) (hc : 325240 ≤ c) : pathSamples delta c ≤ 167520 := by
  rcases le_or_gt delta 0 with h | h
  · rw [pathSamples_of_nonpos h]
    norm_num
  · obtain ⟨-, hle⟩ := pathSamples_spec h (c := c) (by omega)
    by_contra hn
    have hmul : 335041 * 325240 ≤ (2 * pathSamples delta c - 1) * c :=
      mul_le_mul (by omega) hc (by norm_num) (by omega)
    omega

/-- Settles O27: the root by the search that finds it, the quotients by their remainders (R51, R52, R53, R54, R55). -/
theorem delayArithmetic : Obligations.DelayArithmetic := by
  unfold Obligations.DelayArithmetic
  refine ⟨fun a b ⟨hax, hax', hay, hay', haz, haz'⟩ ⟨hbx, hbx', hby, hby', hbz, hbz'⟩ => ?_, fun t hlo hhi => ?_,
    fun delta t hlo hhi hdelta => ?_, fun station zone t => rfl⟩
  · have hsum : (b.x - a.x) ^ 2 + (b.y - a.y) ^ 2 + (b.z - a.z) ^ 2 ≤ 3 * 65535 ^ 2 := by
      have hx := sq_sub_le ⟨hax, hax'⟩ ⟨hbx, hbx'⟩
      have hy := sq_sub_le ⟨hay, hay'⟩ ⟨hby, hby'⟩
      have hz := sq_sub_le ⟨haz, haz'⟩ ⟨hbz, hbz'⟩
      linarith
    obtain ⟨hle, hlt⟩ := distance_spec hsum
    refine ⟨hle, hlt, ?_⟩
    have hroot : distance a b ^ 2 < 113510 ^ 2 := by
      have : (distance a b : Int) ^ 2 < 113510 ^ 2 := by linarith
      exact_mod_cast this
    exact Nat.le_of_lt_succ (lt_of_pow_lt_pow_left₀ 2 (by norm_num) hroot)
  · obtain ⟨hpos, hneg⟩ := speedOfSound_spec t
    exact ⟨hpos, hneg, speedOfSound_bounds hlo hhi⟩
  · obtain ⟨hc, -⟩ := speedOfSound_bounds hlo hhi
    exact ⟨fun h => pathSamples_of_nonpos h _, fun h => pathSamples_spec h (by omega), pathSamples_le hdelta hc⟩

end Sys2Proof.Machine
end

section
/-! ## Ramps and movements -/

namespace Sys2Proof.Machine

/-! ### Ramps -/

section
variable {r : Ramp} (hdue : r.due = false)
include hdue

/-- A ramp whose step does not bring it to its end moves by that step, and shows the value it has reached (R70). -/
theorem Ramp.advance_of_not_arrives (h : r.arrives = false) :
    r.advance = { r with value := r.value + r.step } ∧ r.advance.shown = r.value + r.step := by
  have hmoved : r.advance = { r with value := r.value + r.step } := by simp [Ramp.advance, hdue, h]
  exact ⟨hmoved, by simp [hmoved, Ramp.shown, hdue]⟩

/-- A ramp whose step would reach or pass its end is due in that frame and shows the end (R70; log 2). -/
theorem Ramp.advance_of_arrives (h : r.arrives = true) : r.advance.due = true ∧ r.advance.shown = r.goal := by
  have hmarked : r.advance = { r with due := true } := by simp [Ramp.advance, hdue, h]
  exact ⟨by rw [hmarked], by rw [hmarked]; rfl⟩

end

/-- A rising ramp arrives where its step reaches or passes 1. -/
theorem Ramp.arrives_of_rising {r : Ramp} (h : 0 < r.step) : r.arrives = decide (1 ≤ r.value + r.step) := by
  simp [Ramp.arrives, h, not_lt.mpr h.le]

/-- A falling ramp arrives where its step reaches or passes 0. -/
theorem Ramp.arrives_of_falling {r : Ramp} (h : r.step < 0) : r.arrives = decide (r.value + r.step ≤ 0) := by
  simp [Ramp.arrives, h, not_lt.mpr h.le]

theorem Ramp.goal_of_rising {r : Ramp} (h : 0 < r.step) : r.goal = 1 := if_pos h

theorem Ramp.goal_of_falling {r : Ramp} (h : r.step < 0) : r.goal = 0 := by
  simp [Ramp.goal, h, not_lt.mpr h.le]

/-! ### Movements -/

/-- After `k` of its frames a movement stands `k / frames` of the way, in a straight line (R84, R114, R144). -/
theorem Slide.iterate_advance {frames : Nat} (hframes : 0 < frames) (a b : Rat) {k : Nat} (hk : k ≤ frames) :
    Slide.advance^[k] ⟨a, b, some frames⟩ = ⟨a + (b - a) * k / frames, b, some (frames - k)⟩ := by
  induction k with
  | zero => simp
  | succ k ih =>
    obtain ⟨left, hleft⟩ : ∃ left, frames - k = left + 1 := ⟨frames - k - 1, by omega⟩
    have hrest : frames - (k + 1) = left := by omega
    rw [Function.iterate_succ_apply', ih (by omega), hleft, hrest]
    have hsum : (frames : Rat) = k + (left + 1 : Nat) := by
      exact_mod_cast (show frames = k + (left + 1) by omega)
    have hne : (frames : Rat) ≠ 0 := by exact_mod_cast hframes.ne'
    have hne' : ((left + 1 : Nat) : Rat) ≠ 0 := by exact_mod_cast left.succ_ne_zero
    have hstep : a + (b - a) * k / frames + (b - (a + (b - a) * k / frames)) / ((left + 1 : Nat) : Rat) =
        a + (b - a) * (k + 1 : Nat) / frames := by
      field_simp
      rw [hsum]
      push_cast
      ring
    exact congrArg (fun value => (⟨value, b, some left⟩ : Slide)) hstep

/-! ### Smoothing -/

/-- The applied factor is set at once at the first derivation (R144). -/
theorem Feed.smoothed_first {f : Feed} (hw : f.state ≠ .waiting) (h : f.smoothing = none) (g : Int) :
    f.smoothed g = { f with smoothing := some ⟨g, ⟨gainFactor g, gainFactor g, none⟩⟩ } := by
  unfold Feed.smoothed
  split
  · next hs => exact absurd hs hw
  · rfl
  · next hsm _ => cases h.symm.trans hsm

/-- The applied factor stays where the effective gain does, and else moves from the value reached (R144). -/
theorem Feed.smoothed_again {f : Feed} (hw : f.state ≠ .waiting) {sm : GainSmoothing} (h : f.smoothing = some sm)
    (g : Int) : f.smoothed g = if sm.effective = g then f
      else { f with smoothing := some ⟨g, ⟨sm.factor.value, gainFactor g, some 960⟩⟩ } := by
  unfold Feed.smoothed
  split
  · next hs => exact absurd hs hw
  · next hsm _ => cases hsm.symm.trans h
  · next hsm _ =>
    cases hsm.symm.trans h
    rfl

/-- Settles O52: a ramp by whether its step arrives, a movement by induction on its frames, the smoothing by what it
held. -/
theorem rampsAndMovements : Obligations.RampsAndMovements := by
  unfold Obligations.RampsAndMovements
  refine ⟨⟨fun r hdue => ⟨fun hup hlt => ?_, fun hup hle => ?_, fun hdown hlt => ?_, fun hdown hle => ?_⟩,
    fun frames k a b hk hframes => Slide.iterate_advance hframes a b hk⟩,
    fun f g hw => ⟨fun hnone => Feed.smoothed_first hw hnone g,
      fun sm hsm => ⟨fun he => ?_, fun hne => ?_⟩⟩⟩
  · exact Ramp.advance_of_not_arrives hdue (by simpa [Ramp.arrives_of_rising hup] using hlt)
  · rw [← Ramp.goal_of_rising hup]
    exact Ramp.advance_of_arrives hdue (by simpa [Ramp.arrives_of_rising hup] using hle)
  · exact Ramp.advance_of_not_arrives hdue (by simpa [Ramp.arrives_of_falling hdown] using hlt)
  · rw [← Ramp.goal_of_falling hdown]
    exact Ramp.advance_of_arrives hdue (by simpa [Ramp.arrives_of_falling hdown] using hle)
  · rw [Feed.smoothed_again hw hsm, if_pos he]
  · rw [Feed.smoothed_again hw hsm, if_neg hne]

end Sys2Proof.Machine
end

section
/-! ## What one audio frame leaves

Each table of the part after a frame on the part as the events due leave it, entry by entry, and the sample that a channel
hands on at each of its stages. -/

namespace Sys2Proof.Machine

variable (d : State) (input : Vector Sample 16)

/-! ### The records of the part after a frame -/

@[simp] theorem State.feed_frame (k : FeedKey) : (d.frame input).feed k = (d.feed k).map Feed.advance := by
  obtain ⟨portA, portB, e⟩ := d.frame_eq input
  rw [e]
  simp [State.feed, State.runChannels, State.advanceFrame]

/-- Beside the tables of the channels and mixers, a frame moves the counts, the switch ramp and the service ramp on by one,
takes the next serial of the free values, and has run the frame that an arrival started (R85, R99, R107, R138, R139, R161;
log 26). -/
theorem State.frame_eq_tables : d.frame input = { d with
    feeds := (d.frame input).feeds
    channels := (d.frame input).channels
    sections := (d.frame input).sections
    detectors := (d.frame input).detectors
    mixers := (d.frame input).mixers
    portA := (d.frame input).portA
    portB := (d.frame input).portB
    blockCount := d.blockCount + 1
    windowCount := d.windowCount + 1
    secondCount := if d.service.state = .standby then d.secondCount else d.secondCount + 1
    freeSerial := d.freeSerial + 1
    clock := { d.clock.advance with frameStarted := false }
    service := { d.service with ramp := d.service.ramp.advance } } := by
  obtain ⟨portA, portB, e⟩ := d.frame_eq input
  rw [e]
  rfl

/-- The part on which the mixers of a frame work: every ramp advanced and every channel run. -/
def State.channelled : State := d.advanceFrame.runChannels input

/-- The mixers of a frame, each run on the advanced and channelled part (R146). -/
theorem State.mixer_frame (z : Zone) : vget (d.frame input).mixers z = (d.channelled input).runMixer z := by
  obtain ⟨portA, portB, e⟩ := d.frame_eq input
  rw [e]
  exact vget_vgen _ z

/-- The mute gain moves by one frame (R145). -/
theorem State.mute_frame (z : Zone) : (vget (d.frame input).mixers z).mute = (vget d.mixers z).mute.advance := by
  rw [State.mixer_frame]
  simp [State.runMixer, State.channelled, State.runChannels, State.advanceFrame]

/-- The product of a zone's output stage reads of the frame what it leaves (R146, step 2). -/
theorem State.zoneProduct_frame (z : Zone) : (d.frame input).zoneProduct z = (d.channelled input).zoneProduct z := by
  have hmute : (vget (d.frame input).mixers z).mute = (vget (d.channelled input).mixers z).mute := by
    rw [State.mixer_frame]
    rfl
  unfold State.zoneProduct
  rw [hmute]
  obtain ⟨portA, portB, e⟩ := d.frame_eq input
  rw [e]
  rfl

/-! ### The ports -/

/-- The ports deliver nothing in AWAITING_EXTERNAL, and else the output samples of the zones in their slots, those past the
last zone silent (R136). -/
theorem State.drivePorts_spec (s : State) :
    (s.drivePorts.clock.state = .awaitingExternal → s.drivePorts.portA = none ∧ s.drivePorts.portB = none) ∧
    (s.drivePorts.clock.state ≠ .awaitingExternal →
      s.drivePorts.portA = some (vgen fun i : Fin 16 => (vget s.drivePorts.mixers ⟨i.val, by omega⟩).output) ∧
      s.drivePorts.portB = some (vgen fun i : Fin 16 =>
        if h : i.val < 8 then (vget s.drivePorts.mixers ⟨16 + i.val, by omega⟩).output else 0)) := by
  have hclock : s.drivePorts.clock = s.clock := by
    unfold State.drivePorts
    split <;> rfl
  have hmixers : s.drivePorts.mixers = s.mixers := by
    unfold State.drivePorts
    split <;> rfl
  have hslot (n : Nat) (h : n < 24) : s.slotSample n = (vget s.mixers ⟨n, h⟩).output := dif_pos h
  have hpast (n : Nat) (h : ¬ n < 24) : s.slotSample n = 0 := dif_neg h
  simp only [hclock, hmixers]
  refine ⟨fun h => ?_, fun h => ?_⟩
  · simp [State.drivePorts, h]
  · have hports : s.drivePorts = { s with
        portA := some (vgen fun i : Fin 16 => s.slotSample i.val)
        portB := some (vgen fun i : Fin 16 => s.slotSample (16 + i.val)) } := if_neg h
    rw [hports]
    refine ⟨congrArg (fun f => some (vgen f)) (funext fun i => hslot _ (by omega)),
      congrArg (fun f => some (vgen f)) (funext fun i => ?_)⟩
    split
    · exact hslot _ (by omega)
    · exact hpast _ (by omega)

/-- The part whose ports a frame drives, every mixer run (R146). -/
def State.mixedDown (s : State) : State := { s with mixers := vgen fun z => s.runMixer z }

/-- A frame drives the ports last, then moves the serial of the free values on and ends what an arrival started. -/
theorem State.frame_eq_drivePorts : d.frame input =
    { (d.channelled input).mixedDown.drivePorts with
      freeSerial := (d.channelled input).mixedDown.drivePorts.freeSerial + 1
      clock := { (d.channelled input).mixedDown.drivePorts.clock with frameStarted := false } } := rfl

/-! ### The outputs -/

/-- Settles O53: what is due taken, a frame is its advance, its channels, its mixers and its ports (R63, R136, R144, R146,
R147). -/
theorem frameOutputs : Obligations.FrameOutputs := by
  unfold Obligations.FrameOutputs
  intro s d input hruns hd
  refine ⟨d.frame input, hd ▸ execAudioFrame_runs input hruns, fun z => ?_, by
    rw [d.frame_eq_drivePorts input]
    exact (d.channelled input).mixedDown.drivePorts_spec⟩
  intro sum product m
  have hsum : sum = (d.frame input).zoneSum z := by
    refine congrArg List.sum (List.map_congr_left fun src _ => ?_)
    cases (d.frame input).feed (src, z) with
    | none => rfl
    | some f =>
      show _ = f.contribution _ _
      unfold Feed.contribution
      cases hs : f.state with
      | waiting | fadingIn r | steady | fadingOut r => simp only [hs] <;> rfl
  have hproduct : product = (d.channelled input).zoneProduct z := by
    rw [← d.zoneProduct_frame input z]
    exact congrArg (fun x => x * (vget (d.frame input).mixers z).mute.shown * (d.frame input).service.ramp.shown *
      (d.frame input).clock.gain) hsum
  have hm : m = (d.channelled input).runMixer z := d.mixer_frame input z
  have hbefore : vget (d.channelled input).mixers z =
      { vget d.mixers z with mute := (vget d.mixers z).mute.advance } := vget_vgen _ z
  rw [hm, hproduct]
  refine ⟨isSampleOf_roundSample _ _ _, ?_, ?_⟩
  · show max (vget (d.channelled input).mixers z).peak _ = _
    rw [hbefore]
    rfl
  · show ((vget (d.channelled input).mixers z).clip || saturates _) = _
    rw [hbefore, saturates, Bool.decide_or, Bool.or_comm (decide _)]

/-! ### The channels -/

/-- A channel after a frame: its ramps advanced, its block and history fed (R84, R85, R86, R96). -/
theorem State.channel_frame (src : Source) : vget (d.frame input).channels src =
    { vget d.channels src with
      trimFactor := (vget d.channels src).trimFactor.advance
      gate := (d.gate src).advance
      blockEnergy := (vget d.channels src).blockEnergy + (d.advanceFrame.filtered input src).natAbs ^ 2
      history := (vget d.channels src).history.push (d.advanceFrame.gated input src) } := by
  obtain ⟨portA, portB, e⟩ := d.frame_eq input
  rw [e]
  simp [State.runChannels, State.runChannel, State.advanceFrame, State.gate]

/-- A detector after a frame (R99; log 30). -/
theorem State.detector_frame (src : Source) :
    vget (d.frame input).detectors src = d.advanceFrame.runDetector input src := by
  obtain ⟨portA, portB, e⟩ := d.frame_eq input
  rw [e]
  exact vget_vgen _ src

/-- The sections of a channel with their cuts advanced by one frame (R114). -/
def advancedSections (secs : Vector (Option NotchSection) 16) : Vector (Option NotchSection) 16 :=
  vgen fun i => (vget secs i).map fun sec => { sec with cut := sec.cut.advance }

theorem State.sections_advanceFrame (src : Source) :
    vget d.advanceFrame.sections src = advancedSections (vget d.sections src) := vget_vgen _ src

/-- The sections of a channel after a frame: advanced, then passed by the trimmed sample (R114). -/
theorem State.sections_frame (src : Source) : vget (d.frame input).sections src =
    (runSections d.freeSerial src (d.advanceFrame.trimmed input src) (advancedSections (vget d.sections src))).2 := by
  obtain ⟨portA, portB, e⟩ := d.frame_eq input
  rw [e, ← d.sections_advanceFrame src]
  exact vget_vgen _ src

/-- The trimmed sample is a sample of the port's sample times the trim factor of the frame (R84, R136). -/
theorem State.isSampleOf_trimmed (src : Source) :
    IsSampleOf ((d.portSample input src : Rat) * (vget d.channels src).trimFactor.advance.value)
      (d.advanceFrame.trimmed input src) := by
  have hfactor : (vget d.advanceFrame.channels src).trimFactor = (vget d.channels src).trimFactor.advance :=
    congrArg Channel.trimFactor (vget_vgen _ src)
  have hport : d.advanceFrame.portSample input src = d.portSample input src := by
    unfold State.portSample State.advanceFrame ClockUnit.advance
    split <;> rfl
  unfold State.trimmed
  rw [hfactor, hport]
  exact isSampleOf_roundSample _ _ _

/-- The counted states and the detector's enable decide at a window's first frame; the advance changes neither (R99). -/
theorem State.detectorRuns_advanceFrame (src : Source) : d.advanceFrame.detectorRuns src =
    ((vget d.sources src).detectorEnable && (d.gate src).counted && decide (d.service.state ≠ .standby)) := by
  have hgate : d.advanceFrame.gate src = (d.gate src).advance := congrArg Channel.gate (vget_vgen _ src)
  have hservice : (d.advanceFrame.service.state != .standby) = decide (d.service.state ≠ .standby) := by
    rw [Bool.eq_iff_iff, bne_iff_ne, decide_eq_true_eq]
    rfl
  unfold State.detectorRuns
  rw [hgate, Gate.counted_advance, hservice]
  rfl

/-- The gated sample lies by the product of the sample and the gate gain of the frame, a whole product on it (R96;
log 7). -/
theorem State.gated_within (src : Source) :
    (d.advanceFrame.filtered input src : Rat) * (d.gate src).advance.gain - 1 < d.advanceFrame.gated input src ∧
      (d.advanceFrame.gated input src : Rat) < d.advanceFrame.filtered input src * (d.gate src).advance.gain + 1 := by
  have hgate : d.advanceFrame.gate src = (d.gate src).advance := congrArg Channel.gate (vget_vgen _ src)
  unfold State.gated
  rw [hgate]
  rcases roundSample_spec d.advanceFrame.freeSerial (32 + src.val)
    ((d.advanceFrame.filtered input src : Rat) * (d.gate src).advance.gain) with ⟨n, hn, hr⟩ | h
  · rw [hr, hn]
    constructor <;> linarith
  · exact h

/-- In LOCKED_EXTERNAL no frame runs that no arrival has started (R138; log 15). -/
theorem execAudioFrame_waits {s : State} (hlocked : s.clock.state = .lockedExternal)
    (hstarted : s.clock.frameStarted = false) : exec (.audioFrame input) s = .next s := by
  have hpaced : s.framePaced = false := by simp [State.framePaced, hlocked, hstarted]
  simp [exec, execAudioFrame, hpaced]

/-- Settles O51: the part after a frame table by table, with the samples that `State.trimmed`, `State.filtered` and
`State.gated` give as the ones the statement asks for. -/
theorem frameAdvances : Obligations.FrameAdvances := by
  unfold Obligations.FrameAdvances
  refine fun s input => ⟨execAudioFrame_waits input, fun hruns d hd => ?_⟩
  refine ⟨d.frame input, d.advanceFrame.trimmed input, d.advanceFrame.filtered input, d.advanceFrame.gated input,
    hd ▸ execAudioFrame_runs input hruns, ?_, d.feed_frame input, fun src => ?_, fun src => ?_, d.mute_frame input,
    d.isSampleOf_trimmed input, fun src => ?_, fun src => ?_, fun hist src => ?_⟩
  · have htables := d.frame_eq_tables input
    rewrite [ClockUnit.advance_eq] at htables
    exact htables
  · rw [State.channel_frame]
    rfl
  · intro before analysing
    have hanalysing : (if d.windowCount = 0 then d.advanceFrame.detectorRuns src else before.analysing) = analysing := by
      rw [State.detectorRuns_advanceFrame]
    rw [State.detector_frame, ← hanalysing]
    rfl
  · intro secs
    obtain ⟨chain, hchain, hsample, hother, hpassed⟩ := runSections_spec d.freeSerial src secs
      (d.isSampleOf_trimmed input src).within
    have hsections : vget (d.frame input).sections src =
      (runSections d.freeSerial src (d.advanceFrame.trimmed input src) secs).2 := d.sections_frame input src
    rw [hsections]
    refine ⟨chain, hchain, ?_, hother, hpassed⟩
    have hfiltered : d.advanceFrame.filtered input src =
        (runSections d.freeSerial src (d.advanceFrame.trimmed input src) secs).1 := by
      unfold State.filtered
      rw [State.sections_advanceFrame]
      rfl
    rw [hfiltered]
    exact hsample
  · intro gain
    have hgain : (d.gate src).advance.gain = gain := by
      simp only [gain]
      cases d.gate src <;> rfl
    exact hgain ▸ d.gated_within input src
  · rw [State.channel_frame]
    exact ⟨fun n hn => History.tap_push_succ _ (hist src) hn, History.tap_push_zero _ (hist src)⟩

end Sys2Proof.Machine
end

section
/-! ## What leaves the SETTLED flag

Every operation but the end of an event, GET_CAUSE, ACK_EVENTS and the resets leaves SETTLED as it is: the other flags have
other bits. -/

namespace Sys2Proof.Machine

/-- Whether SETTLED is set (R78). -/
def State.settledFlag (s : State) : Bool := flagIn s.link.flags .settled

variable (s : State)

/-- The bit of SETTLED belongs to no other flag. -/
theorem EventFlag.bit_settled {f : EventFlag} (h : f ≠ .settled) : f.bit.getLsbD 6 = false := by
  cases f with
  | settled => exact absurd rfl h
  | clock | restarted | notchSaturated | limited | cueRefused | cue => decide

theorem State.settledFlag_raise_other {f : EventFlag} (h : f ≠ .settled) : (s.raise f).settledFlag = s.settledFlag := by
  simp only [State.settledFlag, flagIn, State.raise_link, BitVec.getLsbD_or, EventFlag.bit_settled h, Bool.or_false]

theorem State.settledFlag_lower_other {f : EventFlag} (h : f ≠ .settled) : (s.lower f).settledFlag = s.settledFlag := by
  simp only [State.settledFlag, flagIn, State.lower_link, BitVec.getLsbD_and, BitVec.getLsbD_not, EventFlag.bit_settled h]
  simp

theorem State.settledFlag_raise_settled : (s.raise .settled).settledFlag = true := by
  have hbit : EventFlag.settled.bit.getLsbD 6 = true := by decide
  simp [State.settledFlag, flagIn, hbit]

/-- A fold whose every step leaves the SETTLED flag leaves it. -/
theorem foldl_settledFlag {α : Type} {op : State → α → State} (h : ∀ t x, (op t x).settledFlag = t.settledFlag)
    (l : List α) : (l.foldl op s).settledFlag = s.settledFlag :=
  List.foldlRecOn l op (motive := fun t => t.settledFlag = s.settledFlag) rfl fun t ht x _ => (h t x).trans ht

/-! ### Feeds, placements and gates -/

theorem State.settledFlag_offer (k : FeedKey) : (s.offer k).settledFlag = s.settledFlag := by
  rw [State.offer_eq]
  rfl

theorem State.settledFlag_offerAll (keys : List FeedKey) : (s.offerAll keys).settledFlag = s.settledFlag :=
  foldl_settledFlag s State.settledFlag_offer _

theorem State.settledFlag_drop (k : FeedKey) : (s.drop k).settledFlag = s.settledFlag := by
  unfold State.drop
  split
  · rfl
  · split
    · rfl
    · rfl
    · split <;> rfl

theorem State.settledFlag_reconcileZone (src : Source) (p : Placement) (z : Zone) :
    (s.reconcileZone src p z).settledFlag = s.settledFlag := by
  unfold State.reconcileZone
  split
  · exact State.settledFlag_offer _ _
  · split <;> exact State.settledFlag_offer _ _
  · exact s.settledFlag_drop _

theorem State.settledFlag_reconcile (src : Source) : (s.reconcile src).settledFlag = s.settledFlag := by
  unfold State.reconcile
  split
  · split
    · exact foldl_settledFlag s (fun t z => t.settledFlag_reconcileZone src _ z) _
    · rfl
  · rfl

theorem State.settledFlag_reconcileMany (chosen : Source → Bool) :
    (s.reconcileMany chosen).settledFlag = s.settledFlag :=
  foldl_settledFlag s State.settledFlag_reconcile _

theorem State.settledFlag_dropFeeds (src : Source) : (s.dropFeeds src).settledFlag = s.settledFlag :=
  foldl_settledFlag s (fun t z => t.settledFlag_drop (src, z)) _

theorem State.settledFlag_removeIfEmpty (src : Source) : (s.removeIfEmpty src).settledFlag = s.settledFlag := by
  rcases s.removeIfEmpty_cases src with ⟨e, -⟩ | ⟨e, -⟩
  · rw [e]
  · rw [e]
    rfl

theorem State.settledFlag_setGate (src : Source) (g : Gate) : (s.setGate src g).settledFlag = s.settledFlag := by
  rw [State.setGate_eq]
  rfl

theorem State.settledFlag_takeUpDrive (src : Source) : (s.takeUpDrive src).settledFlag = s.settledFlag :=
  s.settledFlag_setGate src _

theorem State.settledFlag_deriveFeed (k : FeedKey) (f : Feed) (p : Placement) :
    (s.deriveFeed k f p).settledFlag = s.settledFlag := by
  unfold State.deriveFeed
  dsimp only
  split
  · exact State.settledFlag_raise_other _ (by decide)
  · rfl

/-! ### Notches and detectors -/

theorem State.settledFlag_placeNotch (src : Source) (n : Notch) : (s.placeNotch src n).settledFlag = s.settledFlag := by
  unfold State.placeNotch
  dsimp only
  split
  · rfl
  · split <;> rfl

theorem State.settledFlag_handOver (src : Source) (b : Band) : (s.handOver src b).settledFlag = s.settledFlag := by
  unfold State.handOver State.handleCandidate
  split
  · rfl
  · split
    · exact State.settledFlag_raise_other _ (by decide)
    · exact State.settledFlag_placeNotch _ src _

theorem State.settledFlag_endWindowOf (src : Source) : (s.endWindowOf src).settledFlag = s.settledFlag := by
  unfold State.endWindowOf
  dsimp only
  split
  · split
    · split
      · exact State.settledFlag_handOver _ src _
      · rfl
    · rfl
  · rfl

theorem State.settledFlag_endWindow : s.endWindow.settledFlag = s.settledFlag := by
  unfold State.endWindow
  split
  · have key := foldl_settledFlag s State.settledFlag_endWindowOf allSources
    generalize allSources.foldl State.endWindowOf s = t at key ⊢
    exact key
  · rfl

theorem State.settledFlag_ageStep (src : Source) (n : Notch) : (s.ageStep src n).settledFlag = s.settledFlag := by
  unfold State.ageStep
  split <;> rfl

theorem State.settledFlag_ageTable (src : Source) : (s.ageTable src).settledFlag = s.settledFlag := by
  refine foldl_settledFlag s (fun t n => ?_) _
  unfold State.ageNotch
  split
  · split
    · exact t.settledFlag_ageStep src n
    · rfl
  · rfl

theorem State.settledFlag_advanceAging : s.advanceAging.settledFlag = s.settledFlag := by
  unfold State.advanceAging
  split
  · have key := foldl_settledFlag s State.settledFlag_ageTable allSources
    generalize allSources.foldl State.ageTable s = t at key ⊢
    exact key
  · rfl

theorem State.settledFlag_completeSection (src : Source) (i : SectionSlot) :
    (s.completeSection src i).settledFlag = s.settledFlag := by
  unfold State.completeSection
  dsimp only
  split
  · split <;> rfl
  · rfl

/-! ### Service control, the clock and the Cue Lines -/

theorem State.settledFlag_beginStandby : s.beginStandby.settledFlag = s.settledFlag := by
  unfold State.beginStandby
  split <;> rfl

theorem State.settledFlag_completeServiceRamp : s.completeServiceRamp.settledFlag = s.settledFlag := by
  unfold State.completeServiceRamp
  split <;> rfl

theorem State.settledFlag_enterClockState (st : ClockState) : (s.enterClockState st).settledFlag = s.settledFlag :=
  State.settledFlag_raise_other _ (by decide)

theorem State.settledFlag_changeClock (target : ClockState) (gain : Rat) :
    (s.changeClock target gain).settledFlag = s.settledFlag := by
  unfold State.changeClock
  dsimp only
  split <;> exact s.settledFlag_enterClockState target

theorem State.settledFlag_switchChange : s.switchChange.settledFlag = s.settledFlag := by
  unfold State.switchChange
  split
  · split
    · rfl
    · exact s.settledFlag_changeClock _ _
  · rfl

theorem State.settledFlag_switchComplete : s.switchComplete.settledFlag = s.settledFlag := by
  unfold State.switchComplete
  split <;> rfl

theorem State.settledFlag_startLock : s.startLock.settledFlag = s.settledFlag := by
  unfold State.startLock
  split <;> rfl

theorem State.settledFlag_lockChange : s.lockChange.settledFlag = s.settledFlag := by
  unfold State.lockChange
  split
  · exact s.settledFlag_changeClock _ _
  · rfl

theorem State.settledFlag_loseClock : s.loseClock.settledFlag = s.settledFlag := by
  unfold State.loseClock
  split
  · split
    · exact s.settledFlag_changeClock _ _
    · exact s.settledFlag_enterClockState _
  · rfl

theorem State.settledFlag_arrival (interval : Rat) : (s.arrival interval).settledFlag = s.settledFlag := by
  unfold State.arrival
  dsimp only
  split
  · rfl
  · split <;> rfl
  · split
    · rfl
    · split
      · rfl
      · split
        · exact s.settledFlag_lockChange
        · split
          · exact State.settledFlag_startLock _
          · rfl

theorem State.settledFlag_missFrame : s.missFrame.settledFlag = s.settledFlag := by
  unfold State.missFrame
  dsimp only
  split
  · rfl
  · split <;> rfl
  · split
    · exact State.settledFlag_loseClock _
    · rfl

theorem State.settledFlag_recordAction (l : Line) (result : ResultCode) :
    (s.recordAction l result).settledFlag = s.settledFlag := by
  have hcue (t : State) : (t.raise .cue).settledFlag = t.settledFlag := t.settledFlag_raise_other (by decide)
  unfold State.recordAction
  dsimp only
  split
  · exact hcue _
  · exact (State.settledFlag_raise_other _ (by decide)).trans (hcue _)

theorem State.settledFlag_clearCueFlags : s.clearCueFlags.settledFlag = s.settledFlag :=
  (State.settledFlag_lower_other _ (by decide)).trans (State.settledFlag_lower_other _ (by decide))

/-! ### Commands that write no held record -/

section
variable {s}

/-- The rise of chip select leaves the flag as the owning rule leaves it. -/
theorem onRise_settledFlag {act : State → Reply} (received : List Byte)
    (hact : (act s).2.2.settledFlag = s.settledFlag) :
    Leaves (fun t => t.settledFlag = s.settledFlag) (onRise received s act) := by
  unfold onRise
  dsimp only
  split
  · split
    · exact leaves_next.mpr rfl
    · exact leaves_next.mpr hact
  · exact leaves_next.mpr rfl

theorem onRequest_settledFlag {i : Instr} {act : State → Reply} (hact : (act s).2.2.settledFlag = s.settledFlag) :
    Leaves (fun t => t.settledFlag = s.settledFlag) (onRequest i s act) :=
  onRise_settledFlag _ hact

/-- The commands that write no held record leave SETTLED, but for the two that clear it (R157, R158). -/
theorem exec_settledFlag {i : Instr} (hw : writesHeld i = false) (hcause : i ≠ .getCause)
    (hack : ∀ flags, i ≠ .ackEvents flags) : Leaves (fun t => t.settledFlag = s.settledFlag) (exec i s) := by
  cases i with dsimp only [exec]
  | getCause => exact absurd rfl hcause
  | ackEvents flags => exact absurd rfl (hack flags)
  | nop | identify | setEventMask _ | getClock | getAlignment | getTiming | getPool | getMeters =>
    exact onRequest_settledFlag rfl
  | listLimited => exact onRequest_settledFlag (s.settledFlag_lower_other (by decide))
  | standby => exact onRequest_settledFlag s.settledFlag_beginStandby
  | setClock _ | getZone _ | getArea _ | findAtStation _ | getSource _ | listNotches _ | clearDynamic _ =>
    refine onRequest_settledFlag ?_
    split <;> rfl
  | getStation _ | getPlacement _ | getFeed _ _ | editNotch _ _ _ _ | retireNotch _ _ =>
    refine onRequest_settledFlag ?_
    split
    · split <;> rfl
    · rfl
  | addNotch source band depth =>
    refine onRequest_settledFlag ?_
    split
    · split
      · rfl
      · split
        · rfl
        · exact State.settledFlag_placeNotch _ _ _
    · rfl
  | restart | transactionStart =>
    refine leaves_next.mpr ?_
    split <;> rfl
  | resetPin =>
    refine leaves_next.mpr ?_
    dsimp only
    split <;> rfl
  | frameRejected received =>
    unfold execFrameRejected
    split
    · exact onRise_settledFlag received rfl
    · exact leaves_next.mpr rfl
  | windowEnd => exact leaves_next.mpr s.settledFlag_endWindow
  | ringCandidate source band =>
    refine leaves_next.mpr ?_
    split
    · exact s.settledFlag_handOver source band
    · rfl
  | agingAdvance => exact leaves_next.mpr s.settledFlag_advanceAging
  | agingStep source band =>
    refine leaves_next.mpr ?_
    split
    · split
      · exact s.settledFlag_ageStep source _
      · rfl
    · rfl
  | sectionMovementComplete source slot => exact leaves_next.mpr (s.settledFlag_completeSection source slot)
  | frameSyncArrival interval => exact leaves_next.mpr (s.settledFlag_arrival interval)
  | missedFrame => exact leaves_next.mpr s.settledFlag_missFrame
  | presenceCountFull => exact leaves_next.mpr s.settledFlag_startLock
  | lockChange => exact leaves_next.mpr s.settledFlag_lockChange
  | clockLoss => exact leaves_next.mpr s.settledFlag_loseClock
  | switchChange => exact leaves_next.mpr s.settledFlag_switchChange
  | switchComplete => exact leaves_next.mpr s.settledFlag_switchComplete
  | serviceRampComplete => exact leaves_next.mpr s.settledFlag_completeServiceRamp
  | _ => cases hw

end

end Sys2Proof.Machine
end

section
/-! ## SETTLED is raised when the settled condition comes to hold

An event raises SETTLED exactly where it takes the part from not settled to settled (`RaisesSettled`). A frame first takes
several events (log 20); there the claim holds of the whole because none of them takes the part out of the settled
condition (`Settling`), so that it comes to hold at most once. -/

namespace Sys2Proof.Machine

/-- The event from `s` to `t` raises SETTLED exactly where it takes the part from not settled to settled (R78). -/
def RaisesSettled (s t : State) : Prop := t.settledFlag = (s.settledFlag || (!s.settled && t.settled))

/-- The events from `s` to `t` raise SETTLED so, and none of them ends the settled condition. -/
structure Settling (s t : State) : Prop where
  keeps : s.settled = true → t.settled = true
  raises : RaisesSettled s t

/-- What R77 and R78 read of the part: the settled condition and SETTLED. -/
def State.settledView (s : State) : Bool × Bool := (s.settled, s.settledFlag)

section
variable {s t u : State}

theorem Settling.of_view (e : t.settledView = s.settledView) : Settling s t := by
  obtain ⟨hsettled, hflag⟩ := Prod.mk.inj e
  refine ⟨fun h => hsettled.trans h, ?_⟩
  unfold RaisesSettled
  rw [hsettled, hflag]
  simp

theorem Settling.refl (s : State) : Settling s s := .of_view rfl

/-- Over two runs of events the condition comes to hold at most once. -/
theorem Settling.trans (h : Settling s t) (h' : Settling t u) : Settling s u := by
  refine ⟨h'.keeps ∘ h.keeps, ?_⟩
  have hflag : t.settledFlag = (s.settledFlag || (!s.settled && t.settled)) := h.raises
  have hflag' : u.settledFlag = (t.settledFlag || (!t.settled && u.settled)) := h'.raises
  unfold RaisesSettled
  rw [hflag', hflag]
  cases hs : s.settled with
  | true => simp [h.keeps hs]
  | false =>
    cases ht : t.settled with
    | true => simp [h'.keeps ht]
    | false => simp

/-- A fold whose every step is a settling one is settling. -/
theorem Settling.foldl {α : Type} {op : State → α → State} (h : ∀ t x, Settling t (op t x)) (l : List α)
    (s : State) : Settling s (l.foldl op s) :=
  List.foldlRecOn l op (motive := Settling s) (.refl s) fun t ht x _ => ht.trans (h t x)

theorem RaisesSettled.of_view (e : t.settledView = s.settledView) : RaisesSettled s t := (Settling.of_view e).raises

theorem RaisesSettled.congr (h : RaisesSettled s t) (e : u.settledView = t.settledView) : RaisesSettled s u := by
  obtain ⟨hsettled, hflag⟩ := Prod.mk.inj e
  unfold RaisesSettled
  rw [hsettled, hflag]
  exact h

/-- An event found on a part that reads the same. -/
theorem RaisesSettled.congr_left (h : RaisesSettled t u) (e : t.settledView = s.settledView) : RaisesSettled s u := by
  obtain ⟨hsettled, hflag⟩ := Prod.mk.inj e
  unfold RaisesSettled
  rw [← hsettled, ← hflag]
  exact h

/-! ### The settled condition -/

/-- The condition is a matter of the queue and of whether each feed is settled (R77). -/
theorem State.settled_congr (hqueue : t.queue = s.queue)
    (hfeed : ∀ k, (t.feed k).map Feed.isSettled = (s.feed k).map Feed.isSettled) : t.settled = s.settled := by
  unfold State.settled
  rw [hqueue]
  congr 2
  funext k
  have hk := hfeed k
  cases hs : s.feed k with
  | none =>
    rw [hs] at hk
    rw [Option.map_eq_none_iff.mp hk]
  | some f =>
    rw [hs] at hk
    obtain ⟨g, hg, he⟩ := Option.map_eq_some_iff.mp hk
    rw [hg]
    exact he

theorem State.settledView_of_held (e : t.held = s.held) (hqueue : t.queue = s.queue)
    (hflag : t.settledFlag = s.settledFlag) : t.settledView = s.settledView := by
  have hsettled := State.settled_congr hqueue fun k => by rw [State.feed_congr s (congrArg Held.feeds e)]
  exact Prod.ext hsettled hflag

/-- A feed in use that is not STEADY, or glides, leaves the part not settled (R77). -/
theorem State.settled_of_feed {k : FeedKey} {f : Feed} (hf : s.feed k = some f) (h : f.isSettled = false) :
    s.settled = false := by
  refine Bool.eq_false_iff.mpr fun hs => ?_
  obtain ⟨hsteady, hglide⟩ := (s.settled_iff.mp hs).2 k f hf
  simp [Feed.isSettled, hsteady, hglide] at h

theorem State.settled_setGate (s : State) (src : Source) (g : Gate) : (s.setGate src g).settled = s.settled := by
  rw [State.setGate_eq]
  rfl

/-! ### The end of an event -/

theorem State.settled_closeEvent (s before : State) : (before.closeEvent s).settled = s.settled := by
  unfold State.closeEvent
  dsimp only
  split
  · exact s.settled_refreshGains
  · exact s.settled_refreshGains

/-- The end of an event raises SETTLED by R78, where nothing in the event has touched it. -/
theorem RaisesSettled.closeEvent (hflag : t.settledFlag = s.settledFlag) : RaisesSettled s (s.closeEvent t) := by
  unfold RaisesSettled
  rw [State.settled_closeEvent, ← hflag, ← t.settled_refreshGains]
  unfold State.closeEvent
  dsimp only
  split
  · next h => rw [State.settledFlag_raise_settled, h, Bool.or_true]
  · next h =>
    rw [Bool.eq_false_iff.mpr h, Bool.or_false]
    rfl

/-- An event that ends so and does not end the settled condition. -/
theorem Settling.closeEvent (hflag : t.settledFlag = s.settledFlag) (hkeeps : s.settled = true → t.settled = true) :
    Settling s (s.closeEvent t) :=
  ⟨fun h => (t.settled_closeEvent s).trans (hkeeps h), .closeEvent hflag⟩

/-- An event that changes a gate. -/
theorem Settling.closeEvent_setGate (h : t.settledView = s.settledView) (src : Source) (g : Gate) :
    Settling s (s.closeEvent (t.setGate src g)) := by
  obtain ⟨hsettled, hflag⟩ := Prod.mk.inj h
  exact .closeEvent ((t.settledFlag_setGate src g).trans hflag)
    fun hs => (t.settled_setGate src g).trans (hsettled.trans hs)

/-- An event on a feed that is not settled. -/
theorem Settling.closeEvent_of_feed {k : FeedKey} {f : Feed} (hf : s.feed k = some f) (h : f.isSettled = false)
    (hflag : t.settledFlag = s.settledFlag) : Settling s (s.closeEvent t) :=
  .closeEvent hflag fun hs => absurd hs (Bool.eq_false_iff.mp (State.settled_of_feed hf h))

end

/-! ### Requests -/

section
variable (s : State)

/-- A request behind the pool check is refused, or one event (R29). -/
theorem RaisesSettled.afterPoolCheck {written : State} (hw : written.settledFlag = s.settledFlag)
    (chosen : Source → Bool) {finish : State → State} (hf : ∀ t, (finish t).settledFlag = t.settledFlag) :
    RaisesSettled s (afterPoolCheck s (s.poolChecked written chosen) finish).2 := by
  rw [afterPoolCheck_eq]
  split
  · exact .of_view rfl
  · exact .closeEvent ((hf _).trans ((written.settledFlag_reconcileMany chosen).trans hw))

theorem RaisesSettled.placeOp (src : Source) (st : StationId) (sv : Service) (level : Int) :
    RaisesSettled s (placeOp src st sv level s).2 := by
  unfold Machine.placeOp
  dsimp only
  split
  · exact .of_view rfl
  · split
    · exact .of_view rfl
    · exact .afterPoolCheck s (by rfl) _ fun t => t.settledFlag_takeUpDrive src

theorem RaisesSettled.moveOp (src : Source) (st : StationId) : RaisesSettled s (moveOp src st s).2 := by
  unfold Machine.moveOp
  dsimp only
  split
  · exact .of_view rfl
  · split
    · exact .of_view rfl
    · split
      · exact .of_view rfl
      · split
        · exact .of_view rfl
        · exact .afterPoolCheck s (by rfl) _ fun _ => rfl

theorem RaisesSettled.retireOp (src : Source) : RaisesSettled s (retireOp src s).2 := by
  cases hp : s.placement src with
  | none => rw [retireOp_absent hp]; exact .of_view rfl
  | some p =>
    cases hs : p.state with
    | retiring => rw [retireOp_retiring hp hs]; exact .of_view rfl
    | active =>
      rw [retireOp_active hp hs]
      exact .closeEvent ((State.settledFlag_takeUpDrive _ _).trans ((State.settledFlag_removeIfEmpty _ _).trans
        (State.settledFlag_dropFeeds _ _)))

theorem RaisesSettled.setLevelOp (src : Source) (level : Int) : RaisesSettled s (setLevelOp src level s).2 := by
  unfold Machine.setLevelOp
  split
  · exact .of_view rfl
  · split
    · exact .of_view rfl
    · exact .closeEvent (State.settledFlag_offerAll _ _)

theorem RaisesSettled.setStationOp (st : StationId) (position : Point) (reach : ZoneSet) :
    RaisesSettled s (setStationOp st position reach s).2 := by
  unfold Machine.setStationOp
  dsimp only
  split
  · exact .of_view rfl
  · split
    · exact .afterPoolCheck s (by rfl) _ fun _ => rfl
    · split
      · exact .closeEvent (State.settledFlag_offerAll _ _)
      · exact .of_view rfl

theorem RaisesSettled.setZoneOp (z : Zone) (r : ZoneRecord) : RaisesSettled s (setZoneOp z r s).2 := by
  unfold Machine.setZoneOp
  dsimp only
  split
  · exact .afterPoolCheck s (by rfl) _ fun _ => rfl
  · split
    · exact .closeEvent (State.settledFlag_offerAll _ _)
    · exact .of_view rfl

theorem RaisesSettled.setAreaOp (a : AreaId) (mode : AreaMode) : RaisesSettled s (setAreaOp a mode s).2 := by
  unfold Machine.setAreaOp
  split
  · exact .of_view rfl
  · exact .afterPoolCheck s (by rfl) _ fun _ => rfl

theorem RaisesSettled.reportTemperature (t : Int) : RaisesSettled s (reportTemperature t s) := by
  unfold Machine.reportTemperature
  dsimp only
  split
  · exact .closeEvent (State.settledFlag_offerAll _ _)
  · exact .of_view rfl

/-- A written source record touches no feed (R82, R94). -/
theorem settledView_setSourceOp (src : Source) (r : SourceRecord) :
    (setSourceOp src r s).settledView = s.settledView := by
  unfold setSourceOp
  dsimp only
  split <;> rfl

theorem RaisesSettled.setGateModeOp (src : Source) (m : GateMode) : RaisesSettled s (setGateModeOp src m s).2 := by
  unfold Machine.setGateModeOp
  dsimp only
  split
  · exact .of_view rfl
  · split
    · exact .closeEvent (State.settledFlag_takeUpDrive _ src)
    · exact .of_view rfl

theorem RaisesSettled.wake : RaisesSettled s s.wake := by
  unfold State.wake
  dsimp only
  split
  · exact .of_view rfl
  · exact .of_view rfl
  · exact .closeEvent (foldl_settledFlag _ State.settledFlag_takeUpDrive allSources)

/-! ### Cue Lines -/

theorem RaisesSettled.perform (a : CueAction) : RaisesSettled s (a.perform s).2 := by
  cases a with
  | none => exact .of_view rfl
  | place src st sv level => exact .placeOp s src st sv level
  | move src st => exact .moveOp s src st
  | retire src => exact .retireOp s src
  | gateMode src m => exact .setGateModeOp s src m
  | wake => exact .wake s

theorem State.settled_recordAction (l : Line) (result : ResultCode) : (s.recordAction l result).settled = s.settled := by
  unfold State.recordAction
  dsimp only
  split <;> rfl

/-- A Cue Line's change is one event, that of the action it carries out (R129, R130). -/
theorem RaisesSettled.debouncedChange (l : Line) : RaisesSettled s (s.debouncedChange l) := by
  unfold State.debouncedChange
  dsimp only
  split
  · exact .of_view rfl
  · split
    · exact ((RaisesSettled.perform (s.settleLine l) _).congr
        (Prod.ext (State.settled_recordAction _ l _) (State.settledFlag_recordAction _ l _))).congr_left rfl
    · exact .of_view rfl

/-! ### Derivations -/

theorem RaisesSettled.derive : RaisesSettled s s.derive := by
  unfold State.derive
  split
  · exact .of_view rfl
  · dsimp only
    split
    · refine .closeEvent ?_
      split
      · rfl
      · exact State.settledFlag_deriveFeed _ _ _ _
    · exact .closeEvent rfl

/-! ### Glides, fades and gains -/

theorem Settling.completeGlide (k : FeedKey) : Settling s (s.completeGlide k) := by
  unfold State.completeGlide
  split
  · next f hf =>
    split
    · next hdue =>
      refine .closeEvent_of_feed hf ?_ rfl
      cases hg : f.glide with
      | none => simp [Feed.glideDue, hg] at hdue
      | some g => simp [Feed.isSettled, hg]
    · exact .refl s
  · exact .refl s

theorem Settling.completeFadeIn (k : FeedKey) : Settling s (s.completeFadeIn k) := by
  unfold State.completeFadeIn
  split
  · next f hf =>
    split
    · next r hr =>
      split
      · exact .closeEvent_of_feed hf (by simp [Feed.isSettled, hr]) rfl
      · exact .refl s
    · exact .refl s
  · exact .refl s

theorem Settling.completeFadeOut (k : FeedKey) : Settling s (s.completeFadeOut k) := by
  unfold State.completeFadeOut
  split
  · next f hf =>
    split
    · next r hr =>
      split
      · exact .closeEvent_of_feed hf (by simp [Feed.isSettled, hr]) (State.settledFlag_removeIfEmpty _ _)
      · exact .refl s
    · exact .refl s
  · exact .refl s

/-- A gain movement that ends touches the applied factor alone (R144). -/
theorem Settling.completeGain (k : FeedKey) : Settling s (s.completeGain k) := by
  unfold State.completeGain
  split
  · next f hf =>
    split
    · refine .of_view (Prod.ext (State.settled_congr rfl fun j => ?_) rfl)
      rw [State.feed_setFeed]
      split
      · next e =>
        rw [← e, hf]
        rfl
      · rfl
    · exact .refl s
  · exact .refl s

/-! ### Gates, trims and mutes -/

theorem Settling.evaluateBlock : Settling s s.evaluateBlock := by
  unfold State.evaluateBlock
  split
  · obtain ⟨C, D, e, -⟩ := s.foldl_evaluateChannel
    rw [e]
    exact .closeEvent rfl id
  · exact .refl s

theorem Settling.expireHold (src : Source) : Settling s (s.expireHold src) := by
  unfold State.expireHold
  dsimp only
  split
  · refine .closeEvent_setGate ?_ src _
    rfl
  · exact .refl s

theorem Settling.completeOpening (src : Source) : Settling s (s.completeOpening src) := by
  unfold State.completeOpening
  split
  · split
    · exact .closeEvent_setGate rfl src _
    · exact .refl s
  · exact .refl s

theorem Settling.completeClosing (src : Source) : Settling s (s.completeClosing src) := by
  unfold State.completeClosing
  split
  · split
    · exact .closeEvent_setGate rfl src _
    · exact .refl s
  · exact .refl s

theorem Settling.completeTrim (src : Source) : Settling s (s.completeTrim src) := by
  unfold State.completeTrim
  dsimp only
  split <;> exact .of_view rfl

theorem Settling.completeMute (z : Zone) : Settling s (s.completeMute z) := by
  unfold State.completeMute
  dsimp only
  split <;> exact .of_view rfl

/-! ### The end of a standby entry -/

/-- Standby entry releases the FADING_OUT feeds and ends glides and fades: it leaves a settled feed settled (R163). -/
theorem State.settled_entered (h : s.settled = true) : s.entered.settled = true := by
  obtain ⟨hqueue, hfeeds⟩ := s.settled_iff.mp h
  refine s.entered.settled_iff.mpr ⟨hqueue, fun k g hg => ?_⟩
  rw [State.feed_entered] at hg
  obtain ⟨f, hf, hg⟩ := Option.bind_eq_some_iff.mp hg
  obtain ⟨hsteady, -⟩ := hfeeds k f hf
  split at hg
  · cases hg
  · cases hg
    exact ⟨by simp [Feed.atStandby, hsteady], rfl⟩

theorem State.settledView_removeIfEmpty (src : Source) : (s.removeIfEmpty src).settledView = s.settledView := by
  rcases s.removeIfEmpty_cases src with ⟨e, -⟩ | ⟨e, -⟩
  · rw [e]
  · rw [e]
    rfl

theorem Settling.endEntry : Settling s s.endEntry := by
  unfold State.endEntry
  split
  · rw [State.completeEntry_eq]
    have hview := List.foldlRecOn allSources State.removeIfEmpty
      (motive := fun t => t.settledView = s.entered.settledView) rfl
      fun t ht src _ => (t.settledView_removeIfEmpty src).trans ht
    obtain ⟨hsettled, hflag⟩ := Prod.mk.inj hview
    exact .closeEvent hflag fun h => hsettled.trans (s.settled_entered h)
  · exact .refl s

/-! ### The frame -/

theorem Settling.takeDueChannel (src : Source) : Settling s (s.takeDueChannel src) := by
  refine (((completeOpening s src).trans (completeClosing _ src)).trans (completeTrim _ src)).trans ?_
  exact .foldl (fun t i => .of_view (State.settledView_of_held (t.held_completeSection src i)
    (t.queue_completeSection src i) (t.settledFlag_completeSection src i))) _ _

theorem Settling.takeDueFeed (k : FeedKey) : Settling s (s.takeDueFeed k) :=
  (((completeGlide s k).trans (completeGain _ k)).trans (completeFadeIn _ k)).trans (completeFadeOut _ k)

/-- None of the events that a frame finds due ends the settled condition (log 20). -/
theorem Settling.takeDue : Settling s s.takeDue := by
  have hchange : Settling s s.switchChange :=
    .of_view (State.settledView_of_held s.held_switchChange s.queue_switchChange s.settledFlag_switchChange)
  have hswitch := hchange.trans (.of_view (State.settledView_of_held (State.held_switchComplete _)
    (State.queue_switchComplete _) (State.settledFlag_switchComplete _)))
  have hentry := hswitch.trans (.endEntry _)
  have hramp := hentry.trans (.of_view (State.settledView_of_held (State.held_completeServiceRamp _)
    (State.queue_completeServiceRamp _) (State.settledFlag_completeServiceRamp _)))
  have hchannels := hramp.trans (.foldl Settling.takeDueChannel allSources _)
  have hfeeds := hchannels.trans (.foldl Settling.takeDueFeed allFeeds _)
  have hmutes := hfeeds.trans (.foldl Settling.completeMute allZones _)
  have hblock := hmutes.trans (.evaluateBlock _)
  have hwindow := hblock.trans (.of_view (State.settledView_of_held (State.held_endWindow _) (State.queue_endWindow _)
    (State.settledFlag_endWindow _)))
  exact hwindow.trans (.of_view (State.settledView_of_held (State.held_advanceAging _) (State.queue_advanceAging _)
    (State.settledFlag_advanceAging _)))

/-- One frame moves a fade, a glide and a factor, and brings none into being or to its end (R64, R70, R144). -/
theorem Feed.isSettled_advance (f : Feed) : f.advance.isSettled = f.isSettled := by
  have hstate : f.advance.state = .steady ↔ f.state = .steady := by
    cases hs : f.state <;> simp [Feed.advance, hs]
  have hglide : f.advance.glide.isNone = f.glide.isNone := Option.isNone_map
  unfold Feed.isSettled
  rw [hglide, Bool.eq_iff_iff]
  simp [hstate]

theorem Settling.frame (input : Vector Sample 16) : Settling s (s.frame input) := by
  have hsettled : s.advanceFrame.settled = s.settled := State.settled_congr rfl fun k => by
    have hfeed : s.advanceFrame.feed k = (s.feed k).map Feed.advance := by simp [State.feed, State.advanceFrame]
    rw [hfeed, Option.map_map]
    exact congrArg (Option.map · (s.feed k)) (funext Feed.isSettled_advance)
  obtain ⟨portA, portB, e⟩ := s.frame_eq input
  rw [e]
  exact .of_view (Prod.ext hsettled rfl)

/-! ### Every command -/

/-- What the owning rule leaves is what the rise of chip select leaves. -/
theorem onRequest_raisesSettled {act : State → Reply} (i : Instr) (hact : RaisesSettled s (act s).2.2) :
    Leaves (RaisesSettled s) (onRequest i s act) := by
  unfold onRequest onRise
  dsimp only
  split
  · split
    · exact leaves_next.mpr (.of_view rfl)
    · exact leaves_next.mpr (hact.congr rfl)
  · exact leaves_next.mpr (.of_view rfl)

/-- The commands of which R78 speaks as one event: not those that clear SETTLED, the resets, and the two that may hold
several cue actions in turn. -/
def isOneEvent : Instr → Bool
  | .getCause | .ackEvents _ | .powerOnReset _ | .clearing _ | .setTiming _ | .cuePinSample _ => false
  | _ => true

/-- Every command that is one event raises SETTLED by R78. -/
theorem exec_raisesSettled {i : Instr} (h : isOneEvent i = true) : Leaves (RaisesSettled s) (exec i s) := by
  cases hw : writesHeld i with
  | false =>
    have hcause : i ≠ .getCause := by rintro rfl; cases h
    have hack (flags : Byte) : i ≠ .ackEvents flags := by rintro rfl; cases h
    exact fun t ht => .of_view
      (State.settledView_of_held (exec_held hw t ht) (exec_queue hw t ht) (exec_settledFlag hw hcause hack t ht))
  | true =>
    cases i with dsimp only [exec]
    | wake => exact onRequest_raisesSettled s _ (.wake s)
    | setStation station position reach =>
      refine onRequest_raisesSettled s _ ?_
      split
      · exact .setStationOp s _ _ _
      · exact .of_view rfl
    | clearStation station =>
      refine onRequest_raisesSettled s _ (.of_view ?_)
      split
      · split
        · rfl
        · split <;> rfl
      · rfl
    | setZone payload =>
      refine onRequest_raisesSettled s _ ?_
      split
      · exact .setZoneOp s _ _
      · exact .of_view rfl
    | setArea area mode service =>
      refine onRequest_raisesSettled s _ ?_
      split
      · split
        · exact .of_view rfl
        · exact .setAreaOp s _ _
      · exact .of_view rfl
    | setTemperature temperature => exact onRequest_raisesSettled s _ (.reportTemperature s _)
    | place source station service level =>
      refine onRequest_raisesSettled s _ ?_
      split
      · exact .placeOp s _ _ _ _
      · exact .of_view rfl
    | move source station =>
      refine onRequest_raisesSettled s _ ?_
      split
      · exact .moveOp s _ _
      · exact .of_view rfl
    | setLevel source level =>
      refine onRequest_raisesSettled s _ ?_
      split
      · exact .setLevelOp s _ _
      · exact .of_view rfl
    | retire source =>
      refine onRequest_raisesSettled s _ ?_
      split
      · exact .retireOp s _
      · exact .of_view rfl
    | setSource payload =>
      refine onRequest_raisesSettled s _ (.of_view ?_)
      split
      · exact settledView_setSourceOp s _ _
      · rfl
    | setGateMode source mode =>
      refine onRequest_raisesSettled s _ ?_
      split
      · exact .setGateModeOp s _ _
      · exact .of_view rfl
    | getZoneMeters => exact onRequest_raisesSettled s _ (.of_view rfl)
    | getCueStatus => exact onRequest_raisesSettled s _ (.of_view (Prod.ext rfl s.settledFlag_clearCueFlags))
    | setCue payload =>
      refine onRequest_raisesSettled s _ (.of_view ?_)
      split <;> rfl
    | derivation => exact leaves_next.mpr (.derive s)
    | glideComplete source zone => exact leaves_next.mpr (Settling.completeGlide s _).raises
    | fadeInComplete source zone => exact leaves_next.mpr (Settling.completeFadeIn s _).raises
    | fadeOutComplete source zone => exact leaves_next.mpr (Settling.completeFadeOut s _).raises
    | audioFrame input =>
      refine leaves_next.mpr ?_
      split
      · exact ((Settling.takeDue s).trans (.frame _ input)).raises
      · exact .of_view rfl
    | blockEvaluation => exact leaves_next.mpr (Settling.evaluateBlock s).raises
    | holdExpiry source => exact leaves_next.mpr (Settling.expireHold s source).raises
    | openingComplete source => exact leaves_next.mpr (Settling.completeOpening s source).raises
    | closingComplete source => exact leaves_next.mpr (Settling.completeClosing s source).raises
    | trimRampComplete source => exact leaves_next.mpr (Settling.completeTrim s source).raises
    | gainMovementComplete source zone => exact leaves_next.mpr (Settling.completeGain s _).raises
    | muteRampComplete zone => exact leaves_next.mpr (Settling.completeMute s zone).raises
    | debouncedChange line => exact leaves_next.mpr (.debouncedChange s line)
    | standbyEntryComplete => exact leaves_next.mpr (Settling.endEntry s).raises
    | powerOnReset _ | clearing _ | setTiming _ | cuePinSample _ => cases h
    | _ => cases hw

end

/-- Settles O16: every event ends in `State.closeEvent`, or touches neither the condition nor the flag; the events that a
frame takes in turn never end the condition (R77, R78). -/
theorem settledRaised : Obligations.SettledRaised := by
  unfold Obligations.SettledRaised
  refine ⟨State.settled_iff, fun i s t hcause hack hpower hclearing htiming hsample ht => ?_⟩
  have hone : isOneEvent i = true := by
    unfold isOneEvent
    split
    · exact absurd rfl hcause
    · exact absurd rfl (hack _)
    · exact absurd rfl (hpower _)
    · exact absurd rfl (hclearing _)
    · exact absurd rfl (htiming _)
    · exact absurd rfl (hsample _)
    · rfl
  exact exec_raisesSettled s hone t ht

end Sys2Proof.Machine
end

section
/-! ## SET_SOURCE and SET_GATE_MODE -/

namespace Sys2Proof.Machine

/-! ### SET_SOURCE -/

/-- What a written record does to its channel: the trim moves from the factor reached, and a hold that runs is reloaded by
a changed hold time (R84, R94). -/
theorem Channel.takeSettings_eq (c : Channel) (old new : SourceRecord) : c.takeSettings old new = { c with
    trimFactor := if old.trim = new.trim then c.trimFactor else ⟨c.trimFactor.value, factorOf new.trim, some 480⟩
    gate := match c.gate with
      | .hold timer => .hold (if old.holdTime = new.holdTime then timer else new.holdTime)
      | g => g } := by
  unfold Channel.takeSettings Slide.toward
  cases c.gate with
  | hold timer => by_cases hh : old.holdTime = new.holdTime <;> simp only [hh, if_true, if_false]
  | _ => rfl

/-- SET_SOURCE of a source writes its record and touches its channel and, where the record forbids it, its detector
(R82, R94, R99). -/
theorem setSourceOp_eq (src : Source) (r : SourceRecord) (s : State) : setSourceOp src r s = { s with
    sources := vset s.sources src r
    channels := vset s.channels src ((vget s.channels src).takeSettings (vget s.sources src) r)
    detectors := if r.detectorEnable then s.detectors else vset s.detectors src Detector.idle } := by
  unfold setSourceOp
  cases r.detectorEnable <;> rfl

/-- The record of a SET_SOURCE, each number clamped to its range (R81). -/
theorem asSourceRecord_eq (p : SourcePayload) (enable : Bool) (mode : GateMode) : asSourceRecord p enable mode = {
    trim := max (-24) (min 48 p.trim.toInt)
    gateMode := mode
    openThreshold := max (-200) (min 0 p.openThreshold.toInt)
    closeThreshold := max (-204) (min (max (-200) (min 0 p.openThreshold.toInt) - 4) p.closeThreshold.toInt)
    holdTime := min 5000 p.holdTime.toNat / 10 * 10
    attackTime := max 1 (min 50 p.attackTime.toNat)
    releaseTime := max 50 (min 2000 p.releaseTime.toNat)
    detectorEnable := enable
    ringMargin := max 24 (min 60 p.ringMargin.toNat)
    persistence := max 2 (min 16 p.persistence.toNat) } := by
  simp only [asSourceRecord, clampInt, clampNat, Nat.zero_max]

section
variable {s : State} (h : s.takesRequest = true)
include h

theorem exec_setSource_outOfRange {p : SourcePayload} (hp : 16 ≤ p.source.toNat ∨ 2 ≤ p.detectorEnable.toNat) :
    exec (.setSource p) s = .next (s.respond .outOfRange 0x30 []) := by
  show execSetSource p s = _
  refine onRequest_answers rfl h ?_
  rcases hp with hp | hp
  · simp only [asId_of_le hp, refuse]
  · cases asId 16 p.source <;> simp only [asYesNo_of_le hp, refuse]

/-- SET_SOURCE of a source answers OK with its record written (R82). -/
theorem exec_setSource {p : SourcePayload} {src : Source} {enable : Bool} (hsrc : p.source.toNat = src.val)
    (henable : p.detectorEnable.toNat = if enable then 1 else 0) : exec (.setSource p) s =
      .next ((setSourceOp src (asSourceRecord p enable (vget s.sources src).gateMode) s).respond .ok 0x30 []) := by
  show execSetSource p s = _
  exact onRequest_answers rfl h (by simp only [asId_of_eq src hsrc, asYesNo_of_eq enable henable, accept])

end

/-- Settles O30: the clamped record is written, and the channel and the detector follow it (R81, R82, R84, R94, R99). -/
theorem setSourceEffects : Obligations.SetSourceEffects := by
  unfold Obligations.SetSourceEffects
  intro p s h
  refine ⟨exec_setSource_outOfRange h, fun src enable hsrc henable => ?_⟩
  rw [exec_setSource h hsrc henable, setSourceOp_eq, Channel.takeSettings_eq, asSourceRecord_eq]
  rfl

/-! ### SET_GATE_MODE -/

section
variable {s : State} (h : s.takesRequest = true) {a b : Byte}
include h

theorem exec_setGateMode_outOfRange (hab : 16 ≤ a.toNat ∨ 3 ≤ b.toNat) :
    exec (.setGateMode a b) s = .next (s.respond .outOfRange 0x32 []) := by
  show execSetGateMode a b s = _
  refine onRequest_answers rfl h ?_
  rcases hab with ha | hb
  · simp only [asId_of_le ha, refuse]
  · cases asId 16 a <;> simp only [asGateMode_of_le hb, refuse]

/-- SET_GATE_MODE of a source answers what its operation does (R93). -/
theorem exec_setGateMode {src : Source} {m : GateMode} (ha : a.toNat = src.val) (hb : b.toNat = m.code)
    {code : ResultCode} {t : State} (ho : setGateModeOp src m s = (code, t)) :
    exec (.setGateMode a b) s = .next (t.respond code 0x32 []) := by
  show execSetGateMode a b s = _
  exact onRequest_answers rfl h (by simp only [asId_of_eq src ha, asGateMode_of_eq m hb, ho, bare])

end

section
variable {s : State} {src : Source} {m : GateMode}

/-- A mode equal to the stored one changes nothing (R93). -/
theorem setGateModeOp_same (hm : (vget s.sources src).gateMode = m) : setGateModeOp src m s = (.ok, s) := by
  simp [setGateModeOp, hm]

/-- A new mode of a source with no ACTIVE placement, or in STANDBY, is stored alone (R86, R93). -/
theorem setGateModeOp_stored (hm : (vget s.sources src).gateMode ≠ m)
    (hidle : s.isPlaced src = false ∨ s.service.state = .standby) :
    setGateModeOp src m s = (.ok, s.storeGateMode src m) := by
  rcases hidle with hp | hs
  · simp [setGateModeOp, hm, hp]
  · simp [setGateModeOp, hm, hs]

/-- A new mode of an ACTIVE source outside STANDBY drives its gate at once (R86, R93). -/
theorem setGateModeOp_driven (hm : (vget s.sources src).gateMode ≠ m) (hp : s.isPlaced src = true)
    (hs : s.service.state ≠ .standby) :
    setGateModeOp src m s = (.ok, s.closeEvent ((s.storeGateMode src m).takeUpDrive src)) := by
  simp [setGateModeOp, hm, hp, hs]

/-- The drive that a stored mode starts, by that mode (R90, R91, R92). -/
theorem State.drivenGate_storeGateMode (hp : s.isPlaced src = true) (hs : s.service.state ≠ .standby) :
    (s.storeGateMode src m).drivenGate src = { vget s.sources src with gateMode := m }.driven (s.gate src) := by
  have hrecord : vget (s.storeGateMode src m).sources src = { vget s.sources src with gateMode := m } :=
    vget_vset_same _ _ _
  have hservice : (s.storeGateMode src m).service.state ≠ .standby := hs
  have hplaced : (s.storeGateMode src m).isPlaced src = true := hp
  rw [State.drivenGate_eq, if_neg hservice, if_pos hplaced, hrecord]
  rfl

end

/-- Settles O31: each clause is one branch of the operation (R90 to R93). -/
theorem setGateModeEffects : Obligations.SetGateModeEffects := by
  unfold Obligations.SetGateModeEffects
  intro a b s h
  refine ⟨exec_setGateMode_outOfRange h, fun src m ha hb => ?_⟩
  refine ⟨fun hm => exec_setGateMode h ha hb (setGateModeOp_same hm),
    fun hm hidle => exec_setGateMode h ha hb (setGateModeOp_stored hm hidle),
    fun hm hp hs => ⟨_, exec_setGateMode h ha hb (setGateModeOp_driven hm hp hs), FeedsBecome.respond ?_ _ _ _⟩⟩
  rw [State.takeUpDrive, State.drivenGate_storeGateMode hp hs]
  refine closeEvent_feedsBecome_of rfl (State.feed_congr s ?_)
  rw [State.setGate_eq]
  rfl

end Sys2Proof.Machine
end

section
/-! ## The block evaluation and the gate's own events -/

namespace Sys2Proof.Machine

variable {s : State} {src : Source}

/-- The AUTO drive holds an ACTIVE source of mode AUTO outside STANDBY (R86). -/
theorem State.drive_eq_auto_iff : s.drive src = .auto ↔
    s.service.state ≠ .standby ∧ s.isPlaced src = true ∧ (vget s.sources src).gateMode = .auto := by
  unfold State.drive
  by_cases hs : s.service.state = .standby
  · simp [hs]
  · cases hp : s.isPlaced src
    · simp [hs]
    · cases hm : (vget s.sources src).gateMode <;> simp [hs]

/-! ### The block evaluation -/

/-- The end of a block: its evaluation of every channel, and the next block's start (R85). -/
theorem State.evaluateBlock_ended (hb : 480 ≤ s.blockCount) : s.evaluateBlock =
    s.closeEvent { allSources.foldl State.evaluateChannel s with blockCount := 0 } := if_pos hb

/-- A block evaluation moves an AUTO gate by the level (R87, R88, R89). -/
theorem State.blockGate_auto (ha : s.drive src = .auto) : s.blockGate src =
    (vget s.sources src).evaluated (blockLevel (vget s.channels src).blockEnergy) (vget s.channels src).gate := if_pos ha

/-- A block evaluation leaves every other gate alone (R85). -/
theorem State.blockGate_other (ha : s.drive src ≠ .auto) : s.blockGate src = (vget s.channels src).gate := if_neg ha

/-- A detector after its source's block evaluation: it stops where an AUTO gate leaves the counted states (R99). -/
theorem State.detector_evaluated (s : State) (src : Source) :
    (if s.drive src = .auto then detectorAfter (s.blockGate src) (vget s.detectors src) else vget s.detectors src) =
      if s.drive src = .auto ∧ ((vget s.sources src).evaluated (blockLevel (vget s.channels src).blockEnergy)
        (vget s.channels src).gate).counted = false then Detector.idle else vget s.detectors src := by
  by_cases ha : s.drive src = .auto
  · rw [if_pos ha, State.blockGate_auto ha, detectorAfter]
    cases ((vget s.sources src).evaluated (blockLevel (vget s.channels src).blockEnergy)
      (vget s.channels src).gate).counted <;> simp [ha]
  · rw [if_neg ha, if_neg fun hc => ha hc.1]

/-- Settles O32: all channels are evaluated as if each alone were, and the event's end leaves them so (R85 to R89, R99). -/
theorem blockEvaluated : Obligations.BlockEvaluated := by
  unfold Obligations.BlockEvaluated
  refine ⟨fun s hb => congrArg Host.Outcome.next (State.evaluateBlock_still hb), fun s hb => ⟨_, rfl, ?_⟩⟩
  obtain ⟨C, D, hCD, hall⟩ := s.foldl_evaluateChannel
  rw [State.evaluateBlock_ended hb, hCD]
  have hclose : FeedsBecome s { s with channels := C, detectors := D, blockCount := 0 } s.feed
      (s.closeEvent { s with channels := C, detectors := D, blockCount := 0 }) := closeEvent_feedsBecome_of rfl rfl
  generalize s.closeEvent { s with channels := C, detectors := D, blockCount := 0 } = t at hclose
  have hchannels : t.channels = C := by rw [hclose.1]
  have hdetectors : t.detectors = D := by rw [hclose.1]
  rw [hchannels, hdetectors]
  refine ⟨hclose, fun src => ?_⟩
  obtain ⟨hchannel, hdetector⟩ := hall src
  refine ⟨fun ha => ?_, fun ha => ?_, ?_⟩
  · rw [hchannel, State.blockGate_auto (State.drive_eq_auto_iff.mpr ha)]
  · rw [hchannel, State.blockGate_other fun e => ha (State.drive_eq_auto_iff.mp e)]
  · rw [hdetector, State.detector_evaluated]
    exact if_congr (and_congr_left fun _ => State.drive_eq_auto_iff) rfl rfl

/-! ### The ends of a gate's ramps and the expiry of its hold -/

/-- A gate written in a counted state touches its channel alone (R99). -/
theorem State.setGate_counted {g : Gate} (hg : g.counted = true) :
    s.setGate src g = s.setChannel src { vget s.channels src with gate := g } := if_pos hg

/-- A gate that leaves the counted states stops its source's detector (R99). -/
theorem State.setGate_uncounted {g : Gate} (hg : g.counted = false) : s.setGate src g =
    (s.setChannel src { vget s.channels src with gate := g }).setDetector src Detector.idle :=
  if_neg (Bool.eq_false_iff.mp hg)

theorem State.completeOpening_due {r : Ramp} {turned : Bool} (hg : s.gate src = .opening r turned)
    (hdue : r.due = true) : s.completeOpening src = s.closeEvent (s.setGate src .opened) := by
  simp only [State.completeOpening, hg, hdue, if_true]

theorem State.completeClosing_due {r : Ramp} (hg : s.gate src = .closing r) (hdue : r.due = true) :
    s.completeClosing src = s.closeEvent (s.setGate src .closed) := by
  simp only [State.completeClosing, hg, hdue, if_true]

/-- Two ramps that one gate runs are the same. -/
theorem Gate.ramp_unique {g : Gate} {r r' : Ramp} (h : g = .closing r ∨ ∃ turned, g = .opening r turned)
    (h' : g = .closing r' ∨ ∃ turned, g = .opening r' turned) : r = r' := by
  rcases h with rfl | ⟨turned, rfl⟩
  · rcases h' with h' | ⟨_, h'⟩ <;> cases h'
    rfl
  · rcases h' with h' | ⟨_, h'⟩ <;> cases h'
    rfl

/-- Whether a source's hold expires: at the end of a block, under the AUTO drive, with the level below the close threshold,
in HOLD with at most one block left or in OPEN with a hold time of 0 (R88). -/
def State.HoldExpires (s : State) (src : Source) : Prop :=
  480 ≤ s.blockCount ∧ s.service.state ≠ .standby ∧ s.isPlaced src = true ∧ (vget s.sources src).gateMode = .auto ∧
    blockLevel (vget s.channels src).blockEnergy < (vget s.sources src).closeThreshold ∧
    ((∃ timer, s.gate src = .hold timer ∧ timer ≤ 10) ∨ (s.gate src = .opened ∧ (vget s.sources src).holdTime = 0))

/-- A hold expires where the block's evaluation takes an AUTO gate out of the counted states (R88). -/
theorem State.holdExpires_iff : s.HoldExpires src ↔
    480 ≤ s.blockCount ∧ s.drive src = .auto ∧ (vget s.channels src).gate.counted = true ∧
      (s.evaluatedGate src (blockLevel (vget s.channels src).blockEnergy)).counted = false := by
  have hexpires := (vget s.sources src).evaluated_expires (blockLevel (vget s.channels src).blockEnergy) (s.gate src)
  rw [State.evaluatedGate_eq, State.drive_eq_auto_iff, and_assoc, and_assoc]
  exact and_congr_right fun _ => and_congr_right fun _ => and_congr_right fun _ => and_congr_right fun _ => hexpires.symm

/-- No hold expires outside that condition (R88). -/
theorem State.expireHold_still (h : ¬ s.HoldExpires src) : s.expireHold src = s :=
  if_neg fun hc => h (State.holdExpires_iff.mpr hc)

/-- A hold that expires makes its gate close from gain 1 on the release step (R88). -/
theorem State.evaluatedGate_expires (h : s.HoldExpires src) :
    s.evaluatedGate src (blockLevel (vget s.channels src).blockEnergy) = (vget s.sources src).closesFrom 1 := by
  obtain ⟨-, -, -, -, hlevel, hgate⟩ := h
  have hbelow := not_le.mpr hlevel
  rw [State.evaluatedGate_eq]
  rcases hgate with ⟨timer, hg, ht⟩ | ⟨hg, h0⟩
  · simp only [SourceRecord.evaluated, hg, hbelow, ht, if_true, if_false]
  · simp only [SourceRecord.evaluated, hg, hbelow, h0, if_true, if_false]

/-- The expiry of a hold writes the level and turns the gate (R85, R88). -/
theorem State.expireHold_expires (h : s.HoldExpires src) : s.expireHold src =
    s.closeEvent ((s.setChannel src { vget s.channels src with
      level := blockLevel (vget s.channels src).blockEnergy }).setGate src ((vget s.sources src).closesFrom 1)) := by
  rw [← State.evaluatedGate_expires h]
  exact if_pos (State.holdExpires_iff.mp h)

/-- A channel written and then its gate out of the counted states: one write of the channel, and the detector stops
(R99). -/
theorem State.setGate_setChannel (c : Channel) {g : Gate} (hg : g.counted = false) :
    (s.setChannel src c).setGate src g = (s.setChannel src { c with gate := g }).setDetector src Detector.idle := by
  rw [State.setGate_uncounted hg]
  simp only [State.setChannel, vget_vset_same, vset_vset]

/-- Settles O33: each event acts where its ramp is due or its hold expires, and changes nothing elsewhere (R87, R88,
R89, R99). -/
theorem gateEvents : Obligations.GateEvents := by
  unfold Obligations.GateEvents
  intro s src
  refine ⟨fun r hr hdue => ?_, fun r turned hr hdue => ⟨_, rfl, ?_⟩, fun r hr hdue => ⟨_, rfl, ?_⟩,
    fun hx => congrArg Host.Outcome.next (State.expireHold_still hx), fun hx => ⟨_, rfl, ?_⟩⟩
  · have hrest : ∀ r', (s.gate src = .closing r' ∨ ∃ turned, s.gate src = .opening r' turned) → r'.due = false :=
      fun r' hr' => Gate.ramp_unique hr hr' ▸ hdue
    exact ⟨congrArg Host.Outcome.next (State.completeOpening_still fun r' turned hr' => hrest r' (.inr ⟨turned, hr'⟩)),
      congrArg Host.Outcome.next (State.completeClosing_still fun r' hr' => hrest r' (.inl hr'))⟩
  · rw [State.completeOpening_due hr hdue, State.setGate_counted rfl]
    exact closeEvent_feedsBecome_of rfl rfl
  · rw [State.completeClosing_due hr hdue, State.setGate_uncounted rfl]
    exact closeEvent_feedsBecome_of rfl rfl
  · rw [State.expireHold_expires hx, State.setGate_setChannel _ rfl]
    exact closeEvent_feedsBecome_of rfl rfl

end Sys2Proof.Machine
end

section
/-! ## The ends of movements and ramps that change nothing else -/

namespace Sys2Proof.Machine

variable {s : State}

theorem Slide.due_iff {m : Slide} : m.due = true ↔ m.left = some 0 := by
  simp [Slide.due]

theorem Slide.due_eq_false {m : Slide} (h : m.left ≠ some 0) : m.due = false :=
  Bool.eq_false_iff.mpr fun hdue => h (Slide.due_iff.mp hdue)

/-! ### Trims, sections and gains -/

section
variable {src : Source}

/-- A trim ramp at its end leaves the factor at its target (R84). -/
theorem State.completeTrim_due (h : (vget s.channels src).trimFactor.left = some 0) : s.completeTrim src =
    s.setChannel src { vget s.channels src with trimFactor := (vget s.channels src).trimFactor.finish } :=
  if_pos (Slide.due_iff.mpr h)

/-- A section's movement at its end leaves the cut at its target, or an outgoing section free (R114). -/
theorem State.completeSection_due {i : SectionSlot} {sec : NotchSection}
    (hsec : vget (vget s.sections src) i = some sec) (h : sec.cut.left = some 0) :
    s.completeSection src i = s.setSections src (vset (vget s.sections src) i sec.arrived) := by
  simp only [State.completeSection, hsec, Slide.due_iff.mpr h, if_true]

end

/-- A gain movement is due where the frames of the applied factor's movement have run (R144). -/
theorem Feed.gainDue_eq {f : Feed} {sm : GainSmoothing} (hsm : f.smoothing = some sm) : f.gainDue = sm.factor.due := by
  simp only [Feed.gainDue, hsm, Option.any_some]

/-- A gain movement at its end leaves the applied factor at its target (R144). -/
theorem State.completeGain_due {k : FeedKey} {f : Feed} {sm : GainSmoothing} (hf : s.feed k = some f)
    (hsm : f.smoothing = some sm) (h : sm.factor.left = some 0) : s.completeGain k =
      s.setFeed k (some { f with smoothing := some { sm with factor := sm.factor.finish } }) := by
  have hdue : f.gainDue = true := (Feed.gainDue_eq hsm).trans (Slide.due_iff.mpr h)
  simp only [State.completeGain, hf, hdue, if_true, Feed.gainArrived, hsm, Option.map_some]

/-! ### Mute and service ramps -/

/-- A ramp that moves ends at 1 rising and at 0 falling. -/
theorem Ramp.finish_of_moving {r : Ramp} (h : r.step ≠ 0) : r.finish = ⟨if 0 < r.step then 1 else 0, 0, false⟩ := by
  unfold Ramp.finish Ramp.rest
  by_cases hpos : 0 < r.step
  · rw [Ramp.goal_of_rising hpos, if_pos hpos]
  · rw [Ramp.goal_of_falling (lt_of_le_of_ne (not_lt.mp hpos) h), if_neg hpos]

/-- A mute ramp at its end leaves the mute gain there (R145). -/
theorem State.completeMute_due {z : Zone} (h : (vget s.mixers z).mute.due = true) : s.completeMute z =
    { s with mixers := vset s.mixers z { vget s.mixers z with mute := (vget s.mixers z).mute.finish } } := if_pos h

/-- A service ramp at its end that rises, or falls in a quiet phase, leaves the service gain there (R161, R167). -/
theorem State.completeServiceRamp_due (h : s.service.ramp.due = true)
    (hends : 0 < s.service.ramp.step ∨ s.service.restart ≠ none) : s.completeServiceRamp =
      { s with service := { s.service with ramp := s.service.ramp.finish } } := if_pos ⟨h, hends⟩

/-- Settles O34: each completion acts where its frames have run, on its own record, and changes nothing before (R84, R114,
R144, R145, R161, R167). -/
theorem movementsEnd : Obligations.MovementsEnd := by
  unfold Obligations.MovementsEnd
  refine fun s => ⟨fun src => ⟨fun hleft => ?trimMoves, fun hleft => ?trimEnds⟩,
    fun src i sec hsec => ⟨fun hleft => ?sectionMoves, fun hleft => ?sectionEnds⟩,
    fun src z f sm hf hsm => ⟨fun hleft => ?gainMoves, fun hleft => ?gainEnds⟩,
    fun z => ⟨fun hdue => ?muteMoves, fun hdue hstep => ?muteEnds⟩,
    fun hdue => ?serviceMoves, fun hdue hrising => ?serviceRisen, fun hdue hfalling hrestart => ?serviceFallen⟩
  case trimMoves => exact congrArg Host.Outcome.next (State.completeTrim_still (Slide.due_eq_false hleft))
  case trimEnds => exact congrArg Host.Outcome.next (State.completeTrim_due hleft)
  case sectionMoves =>
    refine congrArg Host.Outcome.next (State.completeSection_still fun sec' hsec' => ?_)
    cases hsec.symm.trans hsec'
    exact Slide.due_eq_false hleft
  case sectionEnds => exact congrArg Host.Outcome.next (State.completeSection_due hsec hleft)
  case gainMoves =>
    refine congrArg Host.Outcome.next (State.completeGain_still fun f' hf' => ?_)
    cases hf.symm.trans hf'
    exact (Feed.gainDue_eq hsm).trans (Slide.due_eq_false hleft)
  case gainEnds => exact congrArg Host.Outcome.next (State.completeGain_due hf hsm hleft)
  case muteMoves => exact congrArg Host.Outcome.next (State.completeMute_still hdue)
  case muteEnds =>
    rw [← Ramp.finish_of_moving hstep]
    exact congrArg Host.Outcome.next (State.completeMute_due hdue)
  case serviceMoves => exact congrArg Host.Outcome.next (State.completeServiceRamp_still hdue)
  case serviceRisen =>
    have hend : s.service.ramp.finish = ⟨1, 0, false⟩ := by
      rw [Ramp.finish_of_moving hrising.ne', if_pos hrising]
    rw [← hend]
    exact congrArg Host.Outcome.next (State.completeServiceRamp_due hdue (.inl hrising))
  case serviceFallen =>
    have hend : s.service.ramp.finish = ⟨0, 0, false⟩ := by
      rw [Ramp.finish_of_moving hfalling.ne, if_neg hfalling.not_gt]
    rw [← hend]
    exact congrArg Host.Outcome.next (State.completeServiceRamp_due hdue (.inr hrestart))

end Sys2Proof.Machine
end

section
/-! ## Notch Tables in shape, each notch with a section of its own

The condition of R103 and R114 as one on each channel's table and sections, and why each edit of a table, followed by its
sections, keeps it: records taken or rewritten, a record placed, and the sections set afresh. -/

namespace Sys2Proof.Machine

/-! ### The condition on one channel -/

/-- The fields of a record lie in their ranges, and a FIXED one is not quiet (R103). -/
structure Notch.InRange (decay : Nat) (n : Notch) : Prop where
  depth_ge : 6 ≤ n.depth
  depth_le : n.depth ≤ 36
  hits_le : n.hits ≤ 255
  quiet_le : n.quietTime ≤ decay
  fixed_quiet : n.kind = .fixed → n.quietTime = 0

/-- A table as R103 says. -/
structure TableOk (decay : Nat) (t : List Notch) : Prop where
  length_le : t.length ≤ 8
  spaced : Spaced t
  inRange : ∀ n ∈ t, n.InRange decay

/-- Every notch of a table has one section of its own, and every section that is not outgoing is a notch's (R114). -/
structure SectionsServe (t : List Notch) (secs : Vector (Option NotchSection) 16) : Prop where
  own : ∀ n ∈ t, ∃ i sec, vget secs i = some sec ∧
    sec.band = n.band ∧ sec.outgoing = false ∧ sec.cut.target = n.depth ∧
    ∀ j sec', vget secs j = some sec' → sec'.band = n.band → sec'.outgoing = false → j = i
  owned : ∀ i sec, vget secs i = some sec → sec.outgoing = false → ∃ n ∈ t, n.band = sec.band

/-- A channel's table and sections in shape. -/
structure ChannelOk (decay : Nat) (t : List Notch) (secs : Vector (Option NotchSection) 16) : Prop where
  table : TableOk decay t
  sections : SectionsServe t secs

/-- The condition on the part is the one on each channel. -/
theorem State.notchesOk_iff {s : State} : s.NotchesOk ↔
    ∀ src, ChannelOk s.timing.notchDecay (vget s.notches src) (vget s.sections src) := by
  constructor
  · rintro ⟨htables, hsections⟩ src
    obtain ⟨hlength, hspaced, hfields⟩ := htables src
    obtain ⟨hown, howned⟩ := hsections src
    refine ⟨⟨hlength, hspaced, fun n hn => ?_⟩, ⟨hown, howned⟩⟩
    obtain ⟨hge, hle, hhits, hquiet, hfixed⟩ := hfields n hn
    exact ⟨hge, hle, hhits, hquiet, hfixed⟩
  · refine fun h => ⟨fun src => ⟨(h src).table.length_le, (h src).table.spaced, fun n hn => ?_⟩,
      fun src => ⟨(h src).sections.own, (h src).sections.owned⟩⟩
    obtain ⟨hge, hle, hhits, hquiet, hfixed⟩ := (h src).table.inRange n hn
    exact ⟨hge, hle, hhits, hquiet, hfixed⟩

/-- A channel with no notch and no section in use (R116). -/
theorem channelOk_empty (decay : Nat) : ChannelOk decay [] (vgen fun _ => none) :=
  ⟨⟨by simp, List.Pairwise.nil, by simp⟩, ⟨by simp, fun i sec h => by simp at h⟩⟩

/-! ### Records taken or rewritten -/

theorem agedSection_band (left : Notch → Option Notch) (taken : List Notch) (sec : NotchSection) :
    (agedSection left taken sec).band = sec.band := by
  unfold agedSection
  split
  · rfl
  · split
    · rfl
    · exact sec.follow_band _ _

/-- An outgoing section stays outgoing. -/
theorem agedSection_outgoing_eq_false {left : Notch → Option Notch} {taken : List Notch} {sec : NotchSection}
    (h : (agedSection left taken sec).outgoing = false) : sec.outgoing = false := by
  cases ho : sec.outgoing with
  | false => rfl
  | true => rw [agedSection_of_outgoing left taken ho, ho] at h; cases h

theorem NotchSection.follow_target {sec : NotchSection} {n m : Notch} (h : sec.cut.target = n.depth) :
    (sec.follow n (some m)).cut.target = m.depth := by
  unfold NotchSection.follow
  dsimp only
  split
  · next hd => rw [h, hd]
  · rfl

/-- Among records of a table the one found at a record's band is that record. -/
theorem Spaced.notchAt_of_subset {t taken : List Notch} (ht : Spaced t) (hsub : taken ⊆ t) {n : Notch} (hn : n ∈ t) :
    notchAt n.band taken = if n ∈ taken then some n else none := by
  cases hf : notchAt n.band taken with
  | none =>
    rw [if_neg fun hin => notchAt_none.mp hf n hin rfl]
  | some m =>
    obtain ⟨hm, hb⟩ := notchAt_some hf
    obtain rfl := (ht.band_eq_iff (hsub hm) hn).mp hb
    rw [if_pos hm]

theorem mem_agedTable {left : Notch → Option Notch} {taken t : List Notch} {m : Notch} :
    m ∈ agedTable left taken t ↔ ∃ n ∈ t, (if n ∈ taken then left n else some n) = some m := by
  simp [agedTable, List.mem_filterMap]

section
variable {decay : Nat} {t taken : List Notch} {secs : Vector (Option NotchSection) 16} {left : Notch → Option Notch}

/-- What is left of a record, taken or not, has its band. -/
theorem band_of_left (hleft : ∀ n m, left n = some m → m.band = n.band) {n m : Notch}
    (h : (if n ∈ taken then left n else some n) = some m) : m.band = n.band := by
  split at h
  · exact hleft n m h
  · cases h
    rfl

/-- The section of a record follows it, taken or not (R114). -/
theorem agedSection_own (ht : Spaced t) (hsub : taken ⊆ t) {n m : Notch} (hn : n ∈ t)
    (hm : (if n ∈ taken then left n else some n) = some m) {sec : NotchSection} (hb : sec.band = n.band)
    (ho : sec.outgoing = false) (hd : sec.cut.target = n.depth) :
    (agedSection left taken sec).outgoing = false ∧ (agedSection left taken sec).cut.target = m.depth := by
  have hfound := ht.notchAt_of_subset hsub hn
  rw [← hb] at hfound
  by_cases hin : n ∈ taken
  · rw [if_pos hin] at hm hfound
    rw [agedSection_of_some left ho hfound, hm, NotchSection.follow_outgoing]
    exact ⟨by simp [ho], NotchSection.follow_target hd⟩
  · rw [if_neg hin] at hm hfound
    cases hm
    rw [agedSection_of_none left hfound]
    exact ⟨ho, hd⟩

/-- A section that is not outgoing once records are taken belongs to what is left of its record. -/
theorem agedSection_owner (ht : Spaced t) (hsub : taken ⊆ t) {n : Notch} (hn : n ∈ t) {sec : NotchSection}
    (hb : n.band = sec.band) (ho : (agedSection left taken sec).outgoing = false) :
    ∃ m, (if n ∈ taken then left n else some n) = some m := by
  by_cases hin : n ∈ taken
  · have hfound := ht.notchAt_of_subset hsub hn
    rw [if_pos hin, hb] at hfound
    rw [agedSection_of_some left (agedSection_outgoing_eq_false ho) hfound, NotchSection.follow_outgoing] at ho
    rw [if_pos hin]
    cases hl : left n with
    | none => simp [hl] at ho
    | some m => exact ⟨m, rfl⟩
  · exact ⟨n, if_neg hin⟩

theorem vget_agedSections (i : SectionSlot) :
    vget (agedSections left taken secs) i = (vget secs i).map (agedSection left taken) := vget_vgen _ i

variable (hsub : taken ⊆ t) (hleft : ∀ n m, left n = some m → m.band = n.band)
include hsub hleft

/-- Records taken, their sections follow and each notch keeps its own (R114). -/
theorem SectionsServe.aged (h : SectionsServe t secs) (ht : Spaced t) :
    SectionsServe (agedTable left taken t) (agedSections left taken secs) := by
  refine ⟨fun m hm => ?_, fun i sec' hi ho => ?_⟩
  · obtain ⟨n, hn, hnm⟩ := mem_agedTable.mp hm
    obtain ⟨i, sec, hi, hb, ho, hd, honly⟩ := h.own n hn
    have hband := band_of_left hleft hnm
    obtain ⟨ho', hd'⟩ := agedSection_own ht hsub hn hnm hb ho hd
    refine ⟨i, agedSection left taken sec, by rw [vget_agedSections, hi]; rfl,
      (agedSection_band left taken sec).trans (hb.trans hband.symm), ho', hd', fun j sec' hj hb' ho' => ?_⟩
    rw [vget_agedSections, Option.map_eq_some_iff] at hj
    obtain ⟨sec₀, hj, rfl⟩ := hj
    rw [agedSection_band] at hb'
    exact honly j sec₀ hj (hb'.trans hband) (agedSection_outgoing_eq_false ho')
  · rw [vget_agedSections, Option.map_eq_some_iff] at hi
    obtain ⟨sec, hi, rfl⟩ := hi
    obtain ⟨n, hn, hb⟩ := h.owned i sec hi (agedSection_outgoing_eq_false ho)
    obtain ⟨m, hm⟩ := agedSection_owner ht hsub hn hb ho
    exact ⟨m, mem_agedTable.mpr ⟨n, hn, hm⟩, (band_of_left hleft hm).trans (hb.trans (agedSection_band _ _ _).symm)⟩

/-- Records taken, each leaving a record in range or none, leave the channel in shape (R103, R114). -/
theorem ChannelOk.aged (h : ChannelOk decay t secs)
    (hrange : ∀ n ∈ taken, n.InRange decay → ∀ m, left n = some m → m.InRange decay) :
    ChannelOk decay (agedTable left taken t) (agedSections left taken secs) := by
  refine ⟨⟨(List.length_filterMap_le _ t).trans h.table.length_le, spaced_agedTable hleft h.table.spaced,
    fun m hm => ?_⟩, h.sections.aged hsub hleft h.table.spaced⟩
  obtain ⟨n, hn, hnm⟩ := mem_agedTable.mp hm
  by_cases hin : n ∈ taken
  · rw [if_pos hin] at hnm
    exact hrange n hin (h.table.inRange n hn) m hnm
  · rw [if_neg hin] at hnm
    cases hnm
    exact h.table.inRange _ hn

end

section
variable {decay : Nat} {t : List Notch} {secs : Vector (Option NotchSection) 16} (h : ChannelOk decay t secs)
include h

/-- A record rewritten in range at its band, its section following (R104, R107, R110). -/
theorem ChannelOk.rewritten {n m : Notch} (hn : n ∈ t) (hb : m.band = n.band) (hm : m.InRange decay) :
    ChannelOk decay (changeNotch n.band (fun _ => m) t)
      (if n.depth = m.depth then secs else retuneSection secs n.band m.depth) := by
  have hnm : some { m with band := n.band } = some m := by rw [← hb]
  rw [← agedTable_changed h.table.spaced hn (left := fun a => some { m with band := a.band }) hnm,
    ← agedSections_changed secs (left := fun a => some { m with band := a.band }) hnm]
  refine h.aged (by simpa using hn) (fun a b e => by cases e; rfl) fun a _ _ b e => ?_
  cases e
  exact ⟨hm.depth_ge, hm.depth_le, hm.hits_le, hm.quiet_le, hm.fixed_quiet⟩

/-- Some records removed, their sections outgoing (R105, R107, R111, R112). -/
theorem ChannelOk.removed {taken : List Notch} (hsub : taken ⊆ t) :
    ChannelOk decay (agedTable (fun _ => none) taken t) (agedSections (fun _ => none) taken secs) :=
  h.aged hsub (fun _ _ e => by cases e) fun _ _ _ _ e => by cases e

/-- The record of a band removed, its section outgoing (R105, R107, R111). -/
theorem ChannelOk.dropped {n : Notch} (hn : n ∈ t) :
    ChannelOk decay (removeNotch n.band t) (retireSection secs n.band) := by
  rw [← agedTable_removed h.table.spaced hn (left := fun _ => none) rfl,
    ← agedSections_removed secs (left := fun _ => none) rfl]
  exact h.removed (by simpa using hn)

end

/-! ### A record placed -/

/-- A record away from every other takes its ascending place (R103). -/
theorem Spaced.insertNotch {t : List Notch} (h : Spaced t) {n : Notch} (hn : ∀ m ∈ t, ¬ bandsMatch n.band m.band) :
    Spaced (insertNotch n t) := by
  induction t with
  | nil => exact List.pairwise_singleton _ _
  | cons a rest ih =>
    obtain ⟨ha, hrest⟩ := List.pairwise_cons.mp h
    have hna : n.band.val + 2 ≤ a.band.val ∨ a.band.val + 2 ≤ n.band.val := by
      have := hn a (.head _)
      unfold bandsMatch at this
      omega
    unfold Machine.insertNotch
    split
    · next hlt =>
      have hlt' : n.band.val < a.band.val := hlt
      have hfirst : n.band.val + 2 ≤ a.band.val := by omega
      refine List.pairwise_cons.mpr ⟨fun m hm => ?_, h⟩
      rcases List.mem_cons.mp hm with rfl | hm
      · exact hfirst
      · have := ha m hm
        omega
    · next hlt =>
      have hlt' : ¬ n.band.val < a.band.val := hlt
      refine List.pairwise_cons.mpr ⟨fun m hm => ?_, ih hrest fun m hm => hn m (.tail _ hm)⟩
      rcases mem_insertNotch.mp hm with rfl | hm
      · omega
      · exact ha m hm

/-- Where every section is a notch's, the table has 16 records or more. -/
theorem SectionsServe.length_ge {t : List Notch} {secs : Vector (Option NotchSection) 16} (h : SectionsServe t secs)
    (hall : ∀ i, ∃ sec, vget secs i = some sec ∧ sec.outgoing = false) : 16 ≤ t.length := by
  have howner : ∀ i, ∃ n ∈ t, ∃ sec, vget secs i = some sec ∧ sec.outgoing = false ∧ n.band = sec.band := fun i => by
    obtain ⟨sec, hi, ho⟩ := hall i
    obtain ⟨n, hn, hb⟩ := h.owned i sec hi ho
    exact ⟨n, hn, sec, hi, ho, hb⟩
  choose owner hmem hsec using howner
  have hinj : Function.Injective owner := fun i j e => by
    obtain ⟨si, hi, hoi, hbi⟩ := hsec i
    obtain ⟨sj, hj, hoj, hbj⟩ := hsec j
    obtain ⟨k, -, -, -, -, -, honly⟩ := h.own (owner i) (hmem i)
    exact (honly i si hi hbi.symm hoi).trans (honly j sj hj (by rw [e, hbj]) hoj).symm
  have hnodup : ((List.finRange 16).map owner).Nodup := (List.nodup_finRange 16).map hinj
  have hsub : (List.finRange 16).map owner ⊆ t := fun n hn => by
    obtain ⟨i, -, rfl⟩ := List.mem_map.mp hn
    exact hmem i
  simpa using (hnodup.subperm hsub).length_le

/-- A notch placed at a band of no other takes a section that was no notch's (R114). -/
theorem SectionsServe.placed {t : List Notch} {secs : Vector (Option NotchSection) 16} (h : SectionsServe t secs)
    (hroom : t.length < 16) {n : Notch} (hn : ∀ m ∈ t, m.band ≠ n.band) :
    SectionsServe (insertNotch n t) (placeSection secs n.band n.depth) := by
  obtain ⟨hspare, hfull⟩ := sectionFor_spec secs
  unfold placeSection
  cases hi : sectionFor secs with
  | none => exact absurd (h.length_ge (hfull hi)) (by omega)
  | some i =>
    have hbusy : ∀ j sec, vget secs j = some sec → sec.outgoing = false → i ≠ j := by
      rintro j sec hj ho rfl
      rcases hspare i hi with hfree | ⟨sec', hout, ho'⟩
      · simp [hfree] at hj
      · simp_all
    refine ⟨fun m hm => ?_, fun j sec hj ho => ?_⟩
    · rcases mem_insertNotch.mp hm with rfl | hm
      · refine ⟨i, NotchSection.placed m.band m.depth, vget_vset_same _ _ _, rfl, rfl, rfl, fun j sec' hj hb ho => ?_⟩
        by_contra hne
        dsimp only at hj
        rw [vget_vset_other _ _ fun e => hne e.symm] at hj
        obtain ⟨m', hm', hb'⟩ := h.owned j sec' hj ho
        exact hn m' hm' (hb'.trans hb)
      · obtain ⟨k, sec, hk, hb, ho, hd, honly⟩ := h.own m hm
        refine ⟨k, sec, (vget_vset_other _ _ (hbusy k sec hk ho)).trans hk, hb, ho, hd, fun j sec' hj hb' ho' => ?_⟩
        dsimp only at hj
        rw [vget_vset] at hj
        split at hj
        · cases hj
          exact absurd hb'.symm (hn m hm)
        · exact honly j sec' hj hb' ho'
    · dsimp only at hj
      rw [vget_vset] at hj
      split at hj
      · cases hj
        exact ⟨n, mem_insertNotch.mpr (.inl rfl), rfl⟩
      · obtain ⟨m, hm, hb⟩ := h.owned j sec hj ho
        exact ⟨m, mem_insertNotch.mpr (.inr hm), hb⟩

/-- A record in range placed away from every other, where the table has room (R105, R109). -/
theorem ChannelOk.inserted {decay : Nat} {t : List Notch} {secs : Vector (Option NotchSection) 16}
    (h : ChannelOk decay t secs) (hroom : t.length < 8) {n : Notch} (hn : ∀ m ∈ t, ¬ bandsMatch n.band m.band)
    (hrange : n.InRange decay) : ChannelOk decay (insertNotch n t) (placeSection secs n.band n.depth) := by
  refine ⟨⟨by rw [length_insertNotch]; omega, h.table.spaced.insertNotch hn, fun m hm => ?_⟩,
    h.sections.placed (by omega) fun m hm e => hn m hm (by unfold bandsMatch; rw [e]; omega)⟩
  rcases mem_insertNotch.mp hm with rfl | hm
  · exact hrange
  · exact h.table.inRange m hm

/-! ### Sections that change in other ways -/

/-- What the condition reads of a section: its band, whether it is outgoing, and the cut it moves to. -/
def NotchSection.tie (sec : NotchSection) : Band × Bool × Rat := (sec.band, sec.outgoing, sec.cut.target)

/-- Sections tied as before serve as before. -/
theorem SectionsServe.of_tie {t : List Notch} {secs secs' : Vector (Option NotchSection) 16} (h : SectionsServe t secs)
    (e : ∀ i, (vget secs' i).map NotchSection.tie = (vget secs i).map NotchSection.tie) : SectionsServe t secs' := by
  have hback : ∀ i sec', vget secs' i = some sec' → ∃ sec, vget secs i = some sec ∧ sec.tie = sec'.tie := by
    intro i sec' hi
    have hi' := e i
    rw [hi, eq_comm, Option.map_some, Option.map_eq_some_iff] at hi'
    exact hi'
  refine ⟨fun n hn => ?_, fun i sec' hi ho => ?_⟩
  · obtain ⟨i, sec, hi, hb, ho, hd, honly⟩ := h.own n hn
    have hi' := e i
    rw [hi, Option.map_some, Option.map_eq_some_iff] at hi'
    obtain ⟨sec', hi', htie⟩ := hi'
    obtain ⟨hband, hout, htarget⟩ : sec'.band = sec.band ∧ sec'.outgoing = sec.outgoing ∧
        sec'.cut.target = sec.cut.target := by simpa [NotchSection.tie] using htie
    refine ⟨i, sec', hi', hband.trans hb, hout.trans ho, htarget.trans hd, fun j other' hj hb' ho' => ?_⟩
    obtain ⟨other, hj, htie'⟩ := hback j other' hj
    obtain ⟨hband', hout', -⟩ : other.band = other'.band ∧ other.outgoing = other'.outgoing ∧
        other.cut.target = other'.cut.target := by simpa [NotchSection.tie] using htie'
    exact honly j other hj (hband'.trans hb') (hout'.trans ho')
  · obtain ⟨sec, hi, htie⟩ := hback i sec' hi
    obtain ⟨hband, hout, -⟩ : sec.band = sec'.band ∧ sec.outgoing = sec'.outgoing ∧
        sec.cut.target = sec'.cut.target := by simpa [NotchSection.tie] using htie
    obtain ⟨n, hn, hb⟩ := h.owned i sec hi (hout.trans ho)
    exact ⟨n, hn, hb.trans hband⟩

/-- A movement's completion leaves a notch's section at its depth and an outgoing one free (R114). -/
theorem SectionsServe.arrived {t : List Notch} {secs : Vector (Option NotchSection) 16} (h : SectionsServe t secs)
    {i : SectionSlot} {sec : NotchSection} (hi : vget secs i = some sec) : SectionsServe t (vset secs i sec.arrived) := by
  cases ho : sec.outgoing with
  | false =>
    refine h.of_tie fun j => ?_
    rw [vget_vset]
    split
    · next e =>
      subst e
      simp [hi, NotchSection.arrived, ho, NotchSection.tie, Slide.finish, Slide.rest]
    · rfl
  | true =>
    have hfree : sec.arrived = none := if_pos ho
    have hkept : ∀ j sec', vget (vset secs i sec.arrived) j = some sec' ↔ i ≠ j ∧ vget secs j = some sec' := by
      intro j sec'
      rw [vget_vset, hfree]
      split <;> simp_all
    refine ⟨fun n hn => ?_, fun j sec' hj ho' => h.owned j sec' ((hkept j sec').mp hj).2 ho'⟩
    obtain ⟨k, own, hk, hb, hown, hd, honly⟩ := h.own n hn
    have hne : i ≠ k := by
      rintro rfl
      simp_all
    exact ⟨k, own, (hkept k own).mpr ⟨hne, hk⟩, hb, hown, hd,
      fun j sec' hj => honly j sec' ((hkept j sec').mp hj).2⟩

/-- Sections set at once to a table's depths, the i-th record's the i-th (R116). -/
theorem TableOk.sectionsAtRest {decay : Nat} {t : List Notch} (h : TableOk decay t) :
    SectionsServe t (sectionsAtRest t) := by
  have hslot : ∀ i sec, vget (Machine.sectionsAtRest t) i = some sec ↔
      ∃ n, t[i.val]? = some n ∧ ⟨n.band, false, Slide.rest n.depth, FilterMemory.empty⟩ = sec := fun i sec => by
    rw [vget_sectionsAtRest, Option.map_eq_some_iff]
  have hnodup : t.Nodup := h.spaced.imp fun {a b} hab e => by rw [e] at hab; omega
  refine ⟨fun n hn => ?_, fun i sec hi _ => ?_⟩
  · obtain ⟨k, hk, rfl⟩ := List.mem_iff_getElem.mp hn
    have hk' : k < 16 := lt_of_lt_of_le hk (h.length_le.trans (by norm_num))
    refine ⟨⟨k, hk'⟩, _, (hslot _ _).mpr ⟨t[k], List.getElem?_eq_getElem hk, rfl⟩, rfl, rfl, rfl,
      fun j sec hj hb _ => ?_⟩
    obtain ⟨m, hm, rfl⟩ := (hslot j sec).mp hj
    obtain ⟨hlt, rfl⟩ := List.getElem?_eq_some_iff.mp hm
    have hsame : t[j.val] = t[k] := (h.spaced.band_eq_iff (List.getElem_mem hlt) hn).mp hb
    exact Fin.ext ((List.Nodup.getElem_inj_iff hnodup).mp hsame)
  · obtain ⟨n, hn, rfl⟩ := (hslot i sec).mp hi
    exact ⟨n, List.mem_of_getElem? hn, rfl⟩

/-- A table whose records keep their bands and depths is served by the same sections. -/
theorem SectionsServe.map_table {t : List Notch} {secs : Vector (Option NotchSection) 16} (h : SectionsServe t secs)
    {f : Notch → Notch} (hb : ∀ n, (f n).band = n.band) (hd : ∀ n, (f n).depth = n.depth) :
    SectionsServe (t.map f) secs := by
  refine ⟨fun m hm => ?_, fun i sec hi ho => ?_⟩
  · obtain ⟨n, hn, rfl⟩ := List.mem_map.mp hm
    rw [hb, hd]
    exact h.own n hn
  · obtain ⟨n, hn, hband⟩ := h.owned i sec hi ho
    exact ⟨f n, List.mem_map_of_mem hn, (hb n).trans hband⟩

/-- Quiet times shortened to a decay time leave the channel in shape under it (R16). -/
theorem ChannelOk.capped {decay : Nat} {t : List Notch} {secs : Vector (Option NotchSection) 16}
    (h : ChannelOk decay t secs) (new : Nat) : ChannelOk new (t.map (Notch.capped new)) secs := by
  have hband : ∀ n, (Notch.capped new n).band = n.band := fun n => by unfold Notch.capped; split <;> rfl
  have hdepth : ∀ n, (Notch.capped new n).depth = n.depth := fun n => by unfold Notch.capped; split <;> rfl
  refine ⟨⟨by simpa using h.table.length_le, ?_, fun m hm => ?_⟩, h.sections.map_table hband hdepth⟩
  · refine List.pairwise_map.mpr (h.table.spaced.imp fun {a b} hab => ?_)
    rw [hband, hband]
    exact hab
  · obtain ⟨n, hn, rfl⟩ := List.mem_map.mp hm
    obtain ⟨hge, hle, hhits, -, hfixed⟩ := h.table.inRange n hn
    unfold Notch.capped
    split
    · next hk => exact ⟨hge, hle, hhits, min_le_right _ _, fun hf => by simp [hk] at hf⟩
    · next hk =>
      have hquiet : n.quietTime = 0 := hfixed (by cases hn : n.kind <;> simp_all)
      exact ⟨hge, hle, hhits, by omega, hfixed⟩

end Sys2Proof.Machine
end

section
/-! ## Placements and candidates, channel by channel

What a placement and a ring candidate make of one channel's table and sections, as functions of those alone: the equations
of the operations on the part, the cases of R104, R105, R106 and R109, and the condition kept. -/

namespace Sys2Proof.Machine

/-! ### The weakest DYNAMIC notch and the match of a candidate -/

theorem Notch.band_eq_of_weakerOrSame {n m : Notch} (h : n.weakerOrSame m) (h' : m.weakerOrSame n) :
    n.band = m.band := by
  unfold Notch.weakerOrSame at h h'
  rw [Fin.le_def] at h h'
  exact Fin.ext (by omega)

/-- In a table whose records lie apart no two are weakest (R105). -/
theorem IsWeakest.unique {t : List Notch} (ht : Spaced t) {v w : Notch} (hv : IsWeakest t v) (hw : IsWeakest t w) :
    v = w := by
  obtain ⟨hvt, hvk, hvall⟩ := hv
  obtain ⟨hwt, hwk, hwall⟩ := hw
  exact (ht.band_eq_iff hvt hwt).mp (Notch.band_eq_of_weakerOrSame (hvall w hwt hwk) (hwall v hvt hvk))

theorem weakestDynamic_eq_some {t : List Notch} (ht : Spaced t) {w : Notch} (hw : IsWeakest t w) :
    weakestDynamic t = some w := by
  rcases weakestDynamic_spec t with ⟨-, hfixed⟩ | ⟨v, hv, hweakest⟩
  · obtain ⟨hwt, hwk, -⟩ := hw
    rw [hfixed w hwt] at hwk
    cases hwk
  · rw [hv, hweakest.unique ht hw]

theorem weakestDynamic_mem {t : List Notch} {w : Notch} (h : weakestDynamic t = some w) : w ∈ t := by
  rcases weakestDynamic_spec t with ⟨hnone, -⟩ | ⟨v, hv, hmem, -, -⟩
  · rw [hnone] at h
    cases h
  · rw [hv] at h
    cases h
    exact hmem

theorem Notch.near_iff {b : Band} {n : Notch} : n.near b = true ↔ bandsMatch b n.band := by
  simp only [Notch.near, bandsMatch, Bool.and_eq_true, decide_eq_true_eq, and_comm]

/-- The matching notch is the one at the band itself, or the lowest of those beside it (R104). -/
theorem matchingNotch_eq_some {t : List Notch} (ht : Spaced t) {b : Band} {n : Notch} (hn : n ∈ t)
    (hmatch : bandsMatch b n.band)
    (hnearest : ∀ m ∈ t, bandsMatch b m.band → n.band = b ∨ (m.band ≠ b ∧ n.band ≤ m.band)) :
    matchingNotch b t = some n := by
  unfold matchingNotch
  cases hat : notchAt b t with
  | some m =>
    obtain ⟨hm, rfl⟩ := notchAt_some hat
    rcases hnearest m hm (by unfold bandsMatch; omega) with h | ⟨h, -⟩
    · rw [(ht.band_eq_iff hn hm).mp h]
    · exact absurd rfl h
  | none =>
    have hoff : ∀ m ∈ t, m.band ≠ b := notchAt_none.mp hat
    have hbeside : matchingNotch b t = t.find? (Notch.near b) := by simp [matchingNotch, hat]
    cases hfind : t.find? (Notch.near b) with
    | none => exact absurd hmatch (matchingNotch_none.mp (hbeside.trans hfind) n hn)
    | some m =>
      obtain ⟨hm, hmatch'⟩ := matchingNotch_some (hbeside.trans hfind)
      obtain ⟨hnear, before, after, rfl, hbefore⟩ := List.find?_eq_some_iff_append.mp hfind
      obtain ⟨-, hafter, -⟩ := List.pairwise_append.mp ht
      have hle : n.band ≤ m.band := ((hnearest m hm hmatch').resolve_left (hoff n hn)).2
      rcases List.mem_append.mp hn with hin | hin
      · have hfar := hbefore n hin
        simp [Notch.near_iff.mpr hmatch] at hfar
      · rcases List.mem_cons.mp hin with rfl | hin
        · rfl
        · have hlater := (List.pairwise_cons.mp hafter).1 n hin
          have hle' : n.band.val ≤ m.band.val := hle
          omega

/-- A table is saturated with eight FIXED records (R103). -/
theorem tableSaturated_iff {t : List Notch} : tableSaturated t = true ↔ t.length = 8 ∧ ∀ n ∈ t, n.kind = .fixed := by
  simp [tableSaturated]

/-! ### A record placed -/

/-- What placing a record makes of a table that is not saturated, and of its sections (R105, R109, R114). -/
def placedChannel (n : Notch) (t : List Notch) (secs : Vector (Option NotchSection) 16) :
    List Notch × Vector (Option NotchSection) 16 :=
  if t.length < 8 then (insertNotch n t, placeSection secs n.band n.depth)
  else
    match weakestDynamic t with
    | some w => (insertNotch n (removeNotch w.band t), placeSection (retireSection secs w.band) n.band n.depth)
    | none => (t, secs)

theorem State.placeNotch_eq (s : State) (src : Source) (n : Notch) : s.placeNotch src n =
    s.setTable src (placedChannel n (vget s.notches src) (vget s.sections src)).1
      (placedChannel n (vget s.notches src) (vget s.sections src)).2 := by
  unfold State.placeNotch placedChannel
  dsimp only
  split
  · rfl
  · cases weakestDynamic (vget s.notches src) with
    | some w => rfl
    | none => exact (s.setTable_self src).symm

section
variable {n : Notch} {t : List Notch} {secs : Vector (Option NotchSection) 16}

theorem placedChannel_room (h : t.length < 8) :
    placedChannel n t secs = (insertNotch n t, placeSection secs n.band n.depth) := if_pos h

theorem placedChannel_evicts (ht : Spaced t) (h : t.length = 8) {w : Notch} (hw : IsWeakest t w) :
    placedChannel n t secs =
      (insertNotch n (removeNotch w.band t), placeSection (retireSection secs w.band) n.band n.depth) := by
  unfold placedChannel
  rw [if_neg (by omega), weakestDynamic_eq_some ht hw]

/-- A record placed after an eviction is beside every record but the weakest. -/
theorem mem_insertNotch_evicted (ht : Spaced t) {w : Notch} (hw : w ∈ t) {m : Notch} :
    m ∈ insertNotch n (removeNotch w.band t) ↔ m = n ∨ (m ∈ t ∧ m ≠ w) := by
  rw [mem_insertNotch, mem_removeNotch]
  refine or_congr_right (and_congr_right fun hm => not_congr (ht.band_eq_iff hm hw))

/-- A record in range placed away from every other leaves the channel in shape (R105, R109). -/
theorem ChannelOk.placed {decay : Nat} (h : ChannelOk decay t secs) (hn : ∀ m ∈ t, ¬ bandsMatch n.band m.band)
    (hrange : n.InRange decay) : ChannelOk decay (placedChannel n t secs).1 (placedChannel n t secs).2 := by
  unfold placedChannel
  split
  · next hroom => exact h.inserted hroom hn hrange
  · split
    · next w hw =>
      have hmem := weakestDynamic_mem hw
      have hroom : (removeNotch w.band t).length < 8 :=
        lt_of_lt_of_le (List.length_filter_lt_length_iff_exists.mpr ⟨w, hmem, by simp⟩) h.table.length_le
      exact (h.dropped hmem).inserted hroom (fun m hm => hn m (mem_removeNotch.mp hm).1) hrange
    · exact h

end

/-! ### A ring candidate -/

/-- What a ring candidate makes of a table and its sections (R104, R105, R106). -/
def handledChannel (b : Band) (t : List Notch) (secs : Vector (Option NotchSection) 16) :
    List Notch × Vector (Option NotchSection) 16 :=
  match matchingNotch b t with
  | some n =>
    (changeNotch n.band (fun _ => n.hit) t,
      if n.depth = n.hit.depth then secs else retuneSection secs n.band n.hit.depth)
  | none => if tableSaturated t then (t, secs) else placedChannel ⟨b, 12, .dynamic, 0, 1⟩ t secs

/-- A saturated table with no match drops the candidate (R106). -/
def DropsCandidate (b : Band) (t : List Notch) : Prop :=
  t.length = 8 ∧ ∀ n ∈ t, n.kind = .fixed ∧ ¬ bandsMatch b n.band

theorem dropsCandidate_iff {b : Band} {t : List Notch} :
    DropsCandidate b t ↔ matchingNotch b t = none ∧ tableSaturated t = true := by
  rw [matchingNotch_none, tableSaturated_iff]
  exact ⟨fun ⟨h8, h⟩ => ⟨fun n hn => (h n hn).2, h8, fun n hn => (h n hn).1⟩,
    fun ⟨hm, h8, hf⟩ => ⟨h8, fun n hn => ⟨hf n hn, hm n hn⟩⟩⟩

section
variable {s : State} {src : Source} {b : Band}

/-- A dropped candidate raises NOTCH_SATURATED and changes nothing else (R106). -/
theorem State.handleCandidate_dropped (h : DropsCandidate b (vget s.notches src)) :
    s.handleCandidate src b = s.raise .notchSaturated := by
  obtain ⟨hm, hsat⟩ := dropsCandidate_iff.mp h
  simp only [State.handleCandidate, hm, State.saturated, hsat, if_true]

/-- Any other candidate touches the table and its sections alone (R104, R105). -/
theorem State.handleCandidate_taken (h : ¬ DropsCandidate b (vget s.notches src)) : s.handleCandidate src b =
    s.setTable src (handledChannel b (vget s.notches src) (vget s.sections src)).1
      (handledChannel b (vget s.notches src) (vget s.sections src)).2 := by
  unfold State.handleCandidate handledChannel
  cases hm : matchingNotch b (vget s.notches src) with
  | some n => rfl
  | none =>
    have hsat : tableSaturated (vget s.notches src) = false :=
      Bool.eq_false_iff.mpr fun hsat => h (dropsCandidate_iff.mpr ⟨hm, hsat⟩)
    simp only [State.saturated, hsat, Bool.false_eq_true, if_false]
    exact s.placeNotch_eq src _

/-- A dropped candidate leaves the channel. -/
theorem handledChannel_dropped {t : List Notch} {secs : Vector (Option NotchSection) 16} (h : DropsCandidate b t) :
    handledChannel b t secs = (t, secs) := by
  obtain ⟨hm, hsat⟩ := dropsCandidate_iff.mp h
  simp only [handledChannel, hm, hsat, if_true]

end

theorem Notch.InRange.hit {decay : Nat} {n : Notch} (h : n.InRange decay) : n.hit.InRange decay := by
  obtain ⟨hge, hle, -, -, -⟩ := h
  refine ⟨?_, min_le_left _ _, min_le_left _ _, Nat.zero_le _, fun _ => rfl⟩
  show 6 ≤ min 36 (n.depth + 6)
  omega

/-- A candidate leaves the channel in shape (R104, R105, R106). -/
theorem ChannelOk.handled {decay : Nat} {t : List Notch} {secs : Vector (Option NotchSection) 16}
    (h : ChannelOk decay t secs) (b : Band) : ChannelOk decay (handledChannel b t secs).1 (handledChannel b t secs).2 := by
  unfold handledChannel
  cases hm : matchingNotch b t with
  | some n =>
    have hn := (matchingNotch_some hm).1
    exact h.rewritten hn rfl (h.table.inRange n hn).hit
  | none =>
    dsimp only
    split
    · exact h
    · exact h.placed (matchingNotch_none.mp hm) ⟨by norm_num, by norm_num, by norm_num, Nat.zero_le _, fun _ => rfl⟩

/-! ### DYNAMIC records cleared -/

/-- Records of a table taken out one by one are taken out together (R112). -/
theorem foldl_retireSection {gone : List Notch} (hgone : Spaced gone) (secs : Vector (Option NotchSection) 16) :
    gone.foldl (fun secs n => retireSection secs n.band) secs = agedSections (fun _ => none) gone secs := by
  induction gone generalizing secs with
  | nil => exact (agedSections_nil _ secs).symm
  | cons n rest ih =>
    obtain ⟨hn, hrest⟩ := List.pairwise_cons.mp hgone
    have hother : ∀ m ∈ rest, m.band ≠ n.band := fun m hm e => by
      have := hn m hm
      rw [e] at this
      omega
    rw [List.foldl_cons, ih hrest, ← agedSections_removed secs (left := fun _ => none) rfl,
      agedSections_cons _ hother]

/-- The FIXED records are what is left once the DYNAMIC ones are taken out. -/
theorem agedTable_dynamic (t : List Notch) : agedTable (fun _ => none) (t.filter (·.kind == .dynamic)) t =
    t.filter (·.kind == .fixed) := by
  unfold agedTable
  rw [← List.filterMap_eq_filter (p := fun n : Notch => n.kind == .fixed)]
  refine List.filterMap_congr fun m hm => ?_
  cases hk : m.kind <;> simp [hk, hm, Option.guard]

/-- CLEAR_DYNAMIC takes out the DYNAMIC records with their sections (R112). -/
theorem State.clearDynamic_eq {s : State} {src : Source} (ht : Spaced (vget s.notches src)) : s.clearDynamic src =
    s.setTable src ((vget s.notches src).filter (·.kind == .fixed))
      (agedSections (fun _ => none) ((vget s.notches src).filter (·.kind == .dynamic)) (vget s.sections src)) := by
  unfold State.clearDynamic
  dsimp only
  rw [foldl_retireSection (List.Pairwise.filter _ ht)]

/-- CLEAR_DYNAMIC leaves the channel in shape (R112). -/
theorem ChannelOk.cleared {decay : Nat} {t : List Notch} {secs : Vector (Option NotchSection) 16}
    (h : ChannelOk decay t secs) : ChannelOk decay (t.filter (·.kind == .fixed))
      (agedSections (fun _ => none) (t.filter (·.kind == .dynamic)) secs) := by
  rw [← agedTable_dynamic]
  exact h.removed fun _ hn => (List.mem_filter.mp hn).1

end Sys2Proof.Machine
end

section
/-! ## The end of a window

What the end of a window makes of each detector and its channel, source by source (R99 to R101): every detector is judged
on its own window, and what it hands over touches its own channel and NOTCH_SATURATED alone. -/

namespace Sys2Proof.Machine

/-! ### NOTCH_SATURATED -/

/-- The event flags after an event that raises NOTCH_SATURATED just where a candidate is dropped (R106). -/
structure RaisedIf (dropped : Prop) (before after : BitVec 7) : Prop where
  raised : dropped → after = before ||| EventFlag.notchSaturated.bit
  kept : ¬ dropped → after = before

theorem RaisedIf.trans {p q : Prop} {a b c : BitVec 7} (h : RaisedIf p a b) (h' : RaisedIf q b c) :
    RaisedIf (p ∨ q) a c := by
  refine ⟨fun hpq => ?_, fun hpq => ?_⟩
  · by_cases hq : q
    · rw [h'.raised hq]
      by_cases hp : p
      · rw [h.raised hp, BitVec.or_assoc, BitVec.or_self]
      · rw [h.kept hp]
    · rw [h'.kept hq, h.raised (hpq.resolve_right hq)]
  · rw [h'.kept fun hq => hpq (.inr hq), h.kept fun hp => hpq (.inl hp)]

theorem RaisedIf.congr {p q : Prop} {a b : BitVec 7} (h : RaisedIf p a b) (e : q ↔ p) : RaisedIf q a b :=
  ⟨fun hq => h.raised (e.mp hq), fun hq => h.kept fun hp => hq (e.mpr hp)⟩

/-- A candidate touches its table, the table's sections and NOTCH_SATURATED (R104, R105, R106). -/
theorem State.handleCandidate_eq (s : State) (src : Source) (b : Band) : ∃ flags, s.handleCandidate src b = { s with
      notches := vset s.notches src (handledChannel b (vget s.notches src) (vget s.sections src)).1
      sections := vset s.sections src (handledChannel b (vget s.notches src) (vget s.sections src)).2
      link := { s.link with flags := flags } } ∧
    RaisedIf (DropsCandidate b (vget s.notches src)) s.link.flags flags := by
  by_cases h : DropsCandidate b (vget s.notches src)
  · refine ⟨_, ?_, fun _ => rfl, fun hn => absurd h hn⟩
    rw [State.handleCandidate_dropped h, handledChannel_dropped h, vset_vget_self, vset_vget_self]
    rfl
  · refine ⟨_, ?_, fun hd => absurd hd h, fun _ => rfl⟩
    rw [State.handleCandidate_taken h]
    rfl

/-! ### The detector at the end of its window -/

/-- The candidate band of a source's window in progress (R100). -/
def State.windowCandidate (s : State) (src : Source) : Option Band :=
  candidateBand (vget (bandLevels (vget s.detectors src).window)) (vget s.sources src).ringMargin

/-- A detector's count and run band after its window, if it was analysed (R101). -/
def State.updatedDetector (s : State) (src : Source) : Detector :=
  if (vget s.detectors src).analysing then (vget s.detectors src).afterWindow (s.windowCandidate src)
  else vget s.detectors src

/-- The band a detector hands over at the end of its window (R101). -/
def State.handedBand (s : State) (src : Source) : Option Band :=
  if (vget s.detectors src).analysing = true ∧ (vget s.sources src).persistence ≤ (s.updatedDetector src).count then
    s.windowCandidate src
  else none

/-- A detector with its window ended. -/
def Detector.windowEnded (d : Detector) : Detector := { d with analysing := false, window := [] }

theorem Detector.afterWindow_windowEnded (d : Detector) (candidate : Option Band) :
    d.windowEnded.afterWindow candidate = (d.afterWindow candidate).windowEnded := by
  obtain ⟨count, runBand, analysing, window⟩ := d
  cases candidate with
  | none => rfl
  | some b =>
    cases runBand with
    | none => rfl
    | some r =>
      by_cases h : 0 < count ∧ b.val ≤ r.val + 1 ∧ r.val ≤ b.val + 1 <;>
        simp [Detector.afterWindow, Detector.windowEnded, h]

section
variable (s : State) (src : Source)

/-- Where nothing is handed over, the window's end touches the detector alone (R99, R101). -/
theorem State.endWindowOf_kept (h : s.handedBand src = none) :
    s.endWindowOf src = s.setDetector src (s.updatedDetector src).windowEnded := by
  unfold State.endWindowOf
  unfold State.handedBand State.updatedDetector at h
  unfold State.updatedDetector
  dsimp only
  cases ha : (vget s.detectors src).analysing with
  | false => rfl
  | true =>
    simp only [ha, if_true, true_and] at h ⊢
    have hended := Detector.afterWindow_windowEnded (vget s.detectors src) (s.windowCandidate src)
    unfold Detector.windowEnded at hended
    rw [show candidateBand (vget (bandLevels (vget s.detectors src).window)) (vget s.sources src).ringMargin =
      s.windowCandidate src from rfl, hended]
    cases hc : s.windowCandidate src with
    | none => rfl
    | some b =>
      rw [hc] at h
      have hshort : ¬ (vget s.sources src).persistence ≤ ((vget s.detectors src).afterWindow (some b)).count :=
        fun hle => by simp [hle] at h
      dsimp only
      rw [if_neg hshort]
      rfl

/-- Where a band is handed over, the detector starts afresh and the table handles the candidate (R101). -/
theorem State.endWindowOf_handed {b : Band} (h : s.handedBand src = some b) :
    s.endWindowOf src = (s.setDetector src Detector.idle).handleCandidate src b := by
  unfold State.handedBand at h
  obtain ⟨⟨ha, hp⟩, hc⟩ := Option.ite_none_right_eq_some.mp h
  unfold State.updatedDetector at hp
  rw [if_pos ha, hc] at hp
  have hended := Detector.afterWindow_windowEnded (vget s.detectors src) (some b)
  unfold Detector.windowEnded at hended
  unfold State.endWindowOf
  dsimp only
  rw [show candidateBand (vget (bandLevels (vget s.detectors src).window)) (vget s.sources src).ringMargin =
    s.windowCandidate src from rfl, if_pos ha, hc, hended]
  dsimp only
  rw [if_pos hp]
  unfold State.handOver
  simp only [State.setDetector, vget_vset_same, Detector.endRun]
  simp [vset, Detector.idle]

end

/-! ### All sources -/

/-- A detector after the end of the window, a run that has handed its band over being done (R101). -/
def State.endedDetector (s : State) (src : Source) : Detector :=
  match s.handedBand src with
  | some _ => Detector.idle
  | none => (s.updatedDetector src).windowEnded

/-- A channel's table and sections after the end of the window (R101, R104 to R106). -/
def State.endedChannel (s : State) (src : Source) : List Notch × Vector (Option NotchSection) 16 :=
  match s.handedBand src with
  | some b => handledChannel b (vget s.notches src) (vget s.sections src)
  | none => (vget s.notches src, vget s.sections src)

/-- At the end of the window a source's table drops what its detector hands over (R106). -/
def State.DropsAtWindow (s : State) (src : Source) : Prop :=
  ∃ b, s.handedBand src = some b ∧ DropsCandidate b (vget s.notches src)

/-- The end of one detector's window touches its own records and NOTCH_SATURATED. -/
theorem State.endWindowOf_eq (s : State) (src : Source) : ∃ flags, s.endWindowOf src = { s with
      detectors := vset s.detectors src (s.endedDetector src)
      notches := vset s.notches src (s.endedChannel src).1
      sections := vset s.sections src (s.endedChannel src).2
      link := { s.link with flags := flags } } ∧
    RaisedIf (s.DropsAtWindow src) s.link.flags flags := by
  unfold State.endedDetector State.endedChannel State.DropsAtWindow
  cases h : s.handedBand src with
  | none =>
    refine ⟨s.link.flags, ?_, ⟨fun ⟨b, hb, _⟩ => (by cases hb), fun _ => rfl⟩⟩
    rw [State.endWindowOf_kept s src h, vset_vget_self, vset_vget_self]
    rfl
  | some b =>
    obtain ⟨flags, e, hflags⟩ := (s.setDetector src Detector.idle).handleCandidate_eq src b
    refine ⟨flags, ?_, hflags.congr ⟨fun ⟨b', hb, hd⟩ => ?_, fun hd => ⟨b, rfl, hd⟩⟩⟩
    · rw [State.endWindowOf_handed s src h, e]
      rfl
    · cases hb
      exact hd

/-- The windows of some sources ended, each as if it alone had been (log 33). -/
theorem State.foldl_endWindowOf (sources : List Source) (hn : sources.Nodup) (s : State) : ∃ D N S flags,
    sources.foldl State.endWindowOf s =
      { s with detectors := D, notches := N, sections := S, link := { s.link with flags := flags } } ∧
    (∀ src, vget D src = (if src ∈ sources then s.endedDetector src else vget s.detectors src) ∧
      vget N src = (if src ∈ sources then (s.endedChannel src).1 else vget s.notches src) ∧
      vget S src = (if src ∈ sources then (s.endedChannel src).2 else vget s.sections src)) ∧
    RaisedIf (∃ src ∈ sources, s.DropsAtWindow src) s.link.flags flags := by
  induction sources generalizing s with
  | nil => exact ⟨s.detectors, s.notches, s.sections, s.link.flags, rfl, by simp, by simp, fun _ => rfl⟩
  | cons a rest ih =>
    rw [List.nodup_cons] at hn
    obtain ⟨flags₁, e₁, hflags₁⟩ := s.endWindowOf_eq a
    obtain ⟨D, N, S, flags, e, hall, hflags⟩ := ih hn.2 (s.endWindowOf a)
    have hdetector {src : Source} (hne : a ≠ src) : vget (s.endWindowOf a).detectors src = vget s.detectors src := by
      rw [e₁]; exact vget_vset_other _ _ hne
    have hnotches {src : Source} (hne : a ≠ src) : vget (s.endWindowOf a).notches src = vget s.notches src := by
      rw [e₁]; exact vget_vset_other _ _ hne
    have hsections {src : Source} (hne : a ≠ src) : vget (s.endWindowOf a).sections src = vget s.sections src := by
      rw [e₁]; exact vget_vset_other _ _ hne
    have hsources : (s.endWindowOf a).sources = s.sources := by rw [e₁]
    have hupdated {src : Source} (hne : a ≠ src) :
        (s.endWindowOf a).updatedDetector src = s.updatedDetector src := by
      simp only [State.updatedDetector, State.windowCandidate, hdetector hne, hsources]
    have hhanded {src : Source} (hne : a ≠ src) : (s.endWindowOf a).handedBand src = s.handedBand src := by
      simp only [State.handedBand, State.windowCandidate, hupdated hne, hdetector hne, hsources]
    have hne {src : Source} (hsrc : src ∈ rest) : a ≠ src := fun h => hn.1 (h ▸ hsrc)
    refine ⟨D, N, S, flags, ?_, fun src => ?_, ?_⟩
    · rw [List.foldl_cons, e, e₁]
    · obtain ⟨hD, hN, hS⟩ := hall src
      rw [hD, hN, hS]
      by_cases hsrc : src ∈ rest
      · simp only [hsrc, if_true, List.mem_cons, or_true, State.endedDetector, State.endedChannel, hhanded (hne hsrc),
          hupdated (hne hsrc), hnotches (hne hsrc), hsections (hne hsrc), and_self]
      · by_cases ha : a = src
        · subst ha
          simp [hsrc, e₁]
        · have ha' : ¬ src = a := fun h => ha h.symm
          simp [hsrc, ha', hdetector ha, hnotches ha, hsections ha]
    · rw [e₁] at hflags
      refine (hflags₁.trans hflags).congr ?_
      rw [List.exists_mem_cons_iff, ← e₁]
      refine or_congr_right (exists_congr fun src => and_congr_right fun hsrc => ?_)
      simp only [State.DropsAtWindow, hhanded (hne hsrc), hnotches (hne hsrc)]

end Sys2Proof.Machine
end

section
/-! ## Every command keeps the Notch Tables in shape

The condition reads the tables, the sections and the decay time. Every operation beside the notches' own is said once to
leave these three; the notches' own keep the condition channel by channel. -/

namespace Sys2Proof.Machine

/-! ### What the condition reads -/

/-- The decay time, the Notch Tables and the notch sections. -/
structure Notching where
  decay : Nat
  notches : Vector (List Notch) 16
  sections : Vector (Vector (Option NotchSection) 16) 16

/-- What the condition on the Notch Tables reads of the part. -/
def State.notching (s : State) : Notching := ⟨s.timing.notchDecay, s.notches, s.sections⟩

theorem State.NotchesOk.of_notching {s t : State} (h : s.NotchesOk) (e : t.notching = s.notching) : t.NotchesOk := by
  obtain ⟨edecay, enotches, esections⟩ := Notching.mk.inj e
  rw [State.notchesOk_iff] at h ⊢
  rw [edecay, enotches, esections]
  exact h

variable (s : State)

/-- A fold whose every step leaves the Notch Tables and sections leaves them. -/
theorem foldl_notching {α : Type} {op : State → α → State} (h : ∀ t x, (op t x).notching = t.notching) (l : List α) :
    (l.foldl op s).notching = s.notching :=
  List.foldlRecOn l op (motive := fun t => t.notching = s.notching) rfl fun t ht x _ => (h t x).trans ht

/-! ### Shared operations -/

theorem State.notching_refreshGains : s.refreshGains.notching = s.notching := rfl

theorem State.notching_offer (k : FeedKey) : (s.offer k).notching = s.notching := by
  rw [State.offer_eq]
  rfl

theorem State.notching_offerAll (keys : List FeedKey) : (s.offerAll keys).notching = s.notching :=
  foldl_notching s State.notching_offer _

theorem State.notching_closeEvent (before : State) : (before.closeEvent s).notching = s.notching := by
  rw [State.closeEvent_eq]
  rfl

theorem State.notching_drop (k : FeedKey) : (s.drop k).notching = s.notching := by
  unfold State.drop
  split
  · rfl
  · split
    · rfl
    · rfl
    · split <;> rfl

theorem State.notching_reconcileZone (src : Source) (p : Placement) (z : Zone) :
    (s.reconcileZone src p z).notching = s.notching := by
  unfold State.reconcileZone
  split
  · exact State.notching_offer _ _
  · split <;> exact State.notching_offer _ _
  · exact s.notching_drop _

theorem State.notching_reconcile (src : Source) : (s.reconcile src).notching = s.notching := by
  unfold State.reconcile
  split
  · split
    · exact foldl_notching s (fun t z => t.notching_reconcileZone src _ z) _
    · rfl
  · rfl

theorem State.notching_reconcileMany (chosen : Source → Bool) : (s.reconcileMany chosen).notching = s.notching :=
  foldl_notching s State.notching_reconcile _

theorem State.notching_setGate (src : Source) (g : Gate) : (s.setGate src g).notching = s.notching := by
  rw [State.setGate_eq]
  rfl

theorem State.notching_takeUpDrive (src : Source) : (s.takeUpDrive src).notching = s.notching :=
  s.notching_setGate src _

theorem State.notching_foldl_takeUpDrive : (allSources.foldl State.takeUpDrive s).notching = s.notching :=
  foldl_notching s State.notching_takeUpDrive _

theorem State.notching_removeIfEmpty (src : Source) : (s.removeIfEmpty src).notching = s.notching := by
  unfold State.removeIfEmpty
  split
  · split <;> rfl
  · rfl

/-- A request behind the pool check that writes and finishes beside the notches leaves them. -/
theorem notching_afterPoolCheck (written : State) (chosen : Source → Bool) {finish : State → State}
    (hw : written.notching = s.notching) (hf : ∀ t, (finish t).notching = t.notching) :
    (afterPoolCheck s (s.poolChecked written chosen) finish).2.notching = s.notching := by
  rw [afterPoolCheck_eq]
  split
  · rfl
  · exact (State.notching_closeEvent _ s).trans ((hf _).trans ((written.notching_reconcileMany chosen).trans hw))

/-! ### The Building Store, placements and channels -/

theorem notching_setStationOp (st : StationId) (position : Point) (reach : ZoneSet) :
    (setStationOp st position reach s).2.notching = s.notching := by
  unfold setStationOp
  dsimp only
  split
  · rfl
  · split
    · exact notching_afterPoolCheck s _ _ (by rfl) fun _ => rfl
    · split
      · exact (State.notching_closeEvent _ s).trans (State.notching_offerAll _ _)
      · rfl

theorem notching_setZoneOp (z : Zone) (r : ZoneRecord) : (setZoneOp z r s).2.notching = s.notching := by
  unfold setZoneOp
  dsimp only
  split
  · exact notching_afterPoolCheck s _ _ (by rfl) fun _ => rfl
  · split
    · exact (State.notching_closeEvent _ s).trans (State.notching_offerAll _ _)
    · rfl

theorem notching_setAreaOp (a : AreaId) (mode : AreaMode) : (setAreaOp a mode s).2.notching = s.notching := by
  unfold setAreaOp
  split
  · rfl
  · exact notching_afterPoolCheck s _ _ (by rfl) fun _ => rfl

theorem notching_reportTemperature (t : Int) : (reportTemperature t s).notching = s.notching := by
  unfold reportTemperature
  dsimp only
  split
  · exact (State.notching_closeEvent _ s).trans (State.notching_offerAll _ _)
  · rfl

theorem notching_placeOp (src : Source) (st : StationId) (sv : Service) (level : Int) :
    (placeOp src st sv level s).2.notching = s.notching := by
  unfold placeOp
  dsimp only
  split
  · rfl
  · split
    · rfl
    · exact notching_afterPoolCheck s _ _ (by rfl) fun t => t.notching_takeUpDrive src

theorem notching_moveOp (src : Source) (st : StationId) : (moveOp src st s).2.notching = s.notching := by
  unfold moveOp
  dsimp only
  split
  · rfl
  · split
    · rfl
    · split
      · rfl
      · split
        · rfl
        · exact notching_afterPoolCheck s _ _ (by rfl) fun _ => rfl

theorem notching_retireOp (src : Source) : (retireOp src s).2.notching = s.notching := by
  unfold retireOp
  dsimp only
  split
  · rfl
  · split
    · rfl
    · refine (State.notching_closeEvent _ s).trans ((State.notching_setGate _ src _).trans
        ((State.notching_removeIfEmpty _ src).trans ?_))
      exact foldl_notching _ (fun t z => t.notching_drop _) _

theorem notching_setLevelOp (src : Source) (level : Int) : (setLevelOp src level s).2.notching = s.notching := by
  unfold setLevelOp
  dsimp only
  split
  · rfl
  · split
    · rfl
    · exact (State.notching_closeEvent _ s).trans (State.notching_offerAll _ _)

theorem notching_setSourceOp (src : Source) (r : SourceRecord) : (setSourceOp src r s).notching = s.notching := by
  unfold setSourceOp
  dsimp only
  split <;> rfl

theorem notching_setGateModeOp (src : Source) (m : GateMode) : (setGateModeOp src m s).2.notching = s.notching := by
  unfold setGateModeOp
  dsimp only
  split
  · rfl
  · split
    · exact (State.notching_closeEvent _ s).trans (State.notching_setGate _ src _)
    · rfl

theorem State.notching_evaluateBlock : s.evaluateBlock.notching = s.notching := by
  unfold State.evaluateBlock
  split
  · rw [State.notching_closeEvent]
    obtain ⟨C, D, e, -⟩ := s.foldl_evaluateChannel
    rw [e]
    rfl
  · rfl

theorem State.notching_expireHold (src : Source) : (s.expireHold src).notching = s.notching := by
  unfold State.expireHold
  dsimp only
  split
  · exact (State.notching_closeEvent _ s).trans (State.notching_setGate _ src _)
  · rfl

theorem State.notching_completeOpening (src : Source) : (s.completeOpening src).notching = s.notching := by
  unfold State.completeOpening
  split
  · split
    · exact (State.notching_closeEvent _ s).trans (State.notching_setGate _ src _)
    · rfl
  · rfl

theorem State.notching_completeClosing (src : Source) : (s.completeClosing src).notching = s.notching := by
  unfold State.completeClosing
  split
  · split
    · exact (State.notching_closeEvent _ s).trans (State.notching_setGate _ src _)
    · rfl
  · rfl

theorem State.notching_completeTrim (src : Source) : (s.completeTrim src).notching = s.notching := by
  unfold State.completeTrim
  dsimp only
  split <;> rfl

/-! ### Feeds and mixers -/

theorem State.notching_completeGlide (k : FeedKey) : (s.completeGlide k).notching = s.notching := by
  unfold State.completeGlide
  split
  · split
    · exact State.notching_closeEvent _ s
    · rfl
  · rfl

theorem State.notching_completeFadeIn (k : FeedKey) : (s.completeFadeIn k).notching = s.notching := by
  unfold State.completeFadeIn
  split
  · split
    · split
      · exact State.notching_closeEvent _ s
      · rfl
    · rfl
  · rfl

theorem State.notching_completeFadeOut (k : FeedKey) : (s.completeFadeOut k).notching = s.notching := by
  unfold State.completeFadeOut
  split
  · split
    · split
      · exact (State.notching_closeEvent _ s).trans (State.notching_removeIfEmpty _ _)
      · rfl
    · rfl
  · rfl

theorem State.notching_completeGain (k : FeedKey) : (s.completeGain k).notching = s.notching := by
  unfold State.completeGain
  split
  · split <;> rfl
  · rfl

theorem State.notching_derive : s.derive.notching = s.notching := by
  unfold State.derive
  split
  · rfl
  · dsimp only
    split
    · rw [State.notching_closeEvent]
      split
      · rfl
      · unfold State.deriveFeed
        dsimp only
        split <;> rfl
    · rw [State.notching_closeEvent]
      rfl

theorem State.notching_completeMute (z : Zone) : (s.completeMute z).notching = s.notching := by
  unfold State.completeMute
  dsimp only
  split <;> rfl

/-! ### Service control and the clock -/

theorem State.notching_wake : s.wake.notching = s.notching := by
  unfold State.wake
  dsimp only
  split
  · rfl
  · rfl
  · exact (State.notching_closeEvent _ s).trans (State.notching_foldl_takeUpDrive _)

theorem State.notching_beginStandby : s.beginStandby.notching = s.notching := by
  unfold State.beginStandby
  split <;> rfl

theorem State.notching_endEntry : s.endEntry.notching = s.notching := by
  unfold State.endEntry State.completeEntry
  split
  · rw [State.notching_closeEvent]
    exact foldl_notching _ State.notching_removeIfEmpty _
  · rfl

theorem State.notching_completeServiceRamp : s.completeServiceRamp.notching = s.notching := by
  unfold State.completeServiceRamp
  split <;> rfl

theorem State.notching_changeClock (target : ClockState) (gain : Rat) :
    (s.changeClock target gain).notching = s.notching := by
  unfold State.changeClock
  dsimp only
  split <;> rfl

theorem State.notching_switchChange : s.switchChange.notching = s.notching := by
  unfold State.switchChange
  split
  · split
    · rfl
    · exact s.notching_changeClock _ _
  · rfl

theorem State.notching_switchComplete : s.switchComplete.notching = s.notching := by
  unfold State.switchComplete
  split <;> rfl

theorem State.notching_startLock : s.startLock.notching = s.notching := by
  unfold State.startLock
  split <;> rfl

theorem State.notching_lockChange : s.lockChange.notching = s.notching := by
  unfold State.lockChange
  split
  · exact s.notching_changeClock _ _
  · rfl

theorem State.notching_loseClock : s.loseClock.notching = s.notching := by
  unfold State.loseClock
  split
  · split
    · exact s.notching_changeClock _ _
    · rfl
  · rfl

theorem State.notching_arrival (interval : Rat) : (s.arrival interval).notching = s.notching := by
  unfold State.arrival
  dsimp only
  split
  · rfl
  · split <;> rfl
  · split
    · rfl
    · split
      · rfl
      · split
        · exact s.notching_lockChange
        · split
          · exact State.notching_startLock _
          · rfl

theorem State.notching_missFrame : s.missFrame.notching = s.notching := by
  unfold State.missFrame
  dsimp only
  split
  · rfl
  · split <;> rfl
  · split
    · exact State.notching_loseClock _
    · rfl

/-! ### Cue Lines -/

theorem CueAction.notching_perform (a : CueAction) : (a.perform s).2.notching = s.notching := by
  cases a with
  | none => rfl
  | place src st sv level => exact notching_placeOp s src st sv level
  | move src st => exact notching_moveOp s src st
  | retire src => exact notching_retireOp s src
  | gateMode src m => exact notching_setGateModeOp s src m
  | wake => exact s.notching_wake

theorem State.notching_recordAction (l : Line) (result : ResultCode) :
    (s.recordAction l result).notching = s.notching := by
  unfold State.recordAction
  dsimp only
  split <;> rfl

theorem State.notching_debouncedChange (l : Line) : (s.debouncedChange l).notching = s.notching := by
  unfold State.debouncedChange
  dsimp only
  split
  · rfl
  · split
    · exact (State.notching_recordAction _ l _).trans (CueAction.notching_perform _ _)
    · rfl

theorem State.notching_foldl_debouncedChange : (allLines.foldl State.debouncedChange s).notching = s.notching :=
  foldl_notching s State.notching_debouncedChange _

/-! ### The notches' own operations -/

theorem Notch.InRange.aged {decay : Nat} {n m : Notch} (hn : n.InRange decay) (hm : n.aged decay = some m) :
    m.InRange decay := by
  obtain ⟨hge, hle, hhits, -, -⟩ := id hn
  unfold Notch.aged at hm
  split at hm
  · cases hm
    exact hn
  · next hk =>
    split at hm
    · next hwaits =>
      cases hm
      exact ⟨hge, hle, hhits, hwaits.le, fun hf => by cases hk.symm.trans hf⟩
    · split at hm
      · cases hm
      · next hdeep =>
        cases hm
        refine ⟨?_, ?_, hhits, Nat.zero_le _, fun _ => rfl⟩
        · show 6 ≤ n.depth - 6
          omega
        · show n.depth - 6 ≤ 36
          omega

theorem asDepth_inRange (d : Byte) : 6 ≤ asDepth d ∧ asDepth d ≤ 36 := by
  unfold asDepth clampNat
  omega

variable {s}

section
variable (h : s.NotchesOk)
include h

theorem State.NotchesOk.channel (src : Source) :
    ChannelOk s.timing.notchDecay (vget s.notches src) (vget s.sections src) := State.notchesOk_iff.mp h src

/-- A channel given a table and sections in shape. -/
theorem State.NotchesOk.setTable {src : Source} {t : List Notch} {secs : Vector (Option NotchSection) 16}
    (hc : ChannelOk s.timing.notchDecay t secs) : (s.setTable src t secs).NotchesOk := by
  refine State.notchesOk_iff.mpr fun a => ?_
  rw [State.setTable_notches, State.setTable_sections, State.setTable_timing, vget_vset, vget_vset]
  by_cases ha : src = a
  · rw [if_pos ha, if_pos ha]
    exact hc
  · rw [if_neg ha, if_neg ha]
    exact h.channel a

theorem State.NotchesOk.setSections {src : Source} {secs : Vector (Option NotchSection) 16}
    (hc : SectionsServe (vget s.notches src) secs) : (s.setSections src secs).NotchesOk := by
  refine State.notchesOk_iff.mpr fun a => ?_
  rw [State.setSections_notches, State.setSections_sections, State.setSections_timing, vget_vset]
  by_cases ha : src = a
  · subst ha
    rw [if_pos rfl]
    exact ⟨(h.channel src).table, hc⟩
  · rw [if_neg ha]
    exact h.channel a

theorem State.NotchesOk.handleCandidate (src : Source) (b : Band) : (s.handleCandidate src b).NotchesOk := by
  by_cases hd : DropsCandidate b (vget s.notches src)
  · rw [State.handleCandidate_dropped hd]
    exact h.of_notching rfl
  · rw [State.handleCandidate_taken hd]
    exact h.setTable ((h.channel src).handled b)

theorem State.NotchesOk.handOver (src : Source) (b : Band) : (s.handOver src b).NotchesOk := by
  have hafresh : (s.setDetector src (vget s.detectors src).endRun).NotchesOk := h.of_notching rfl
  exact hafresh.handleCandidate src b

theorem State.NotchesOk.endWindowOf (src : Source) : (s.endWindowOf src).NotchesOk := by
  cases hb : s.handedBand src with
  | none =>
    rw [State.endWindowOf_kept s src hb]
    exact h.of_notching rfl
  | some b =>
    rw [State.endWindowOf_handed s src hb]
    have hafresh : (s.setDetector src Detector.idle).NotchesOk := h.of_notching rfl
    exact hafresh.handleCandidate src b

theorem State.NotchesOk.endWindow : s.endWindow.NotchesOk := by
  unfold State.endWindow
  split
  · have hfold : (allSources.foldl State.endWindowOf s).NotchesOk :=
      List.foldlRecOn allSources State.endWindowOf (motive := State.NotchesOk) h fun _ ht src _ => ht.endWindowOf src
    generalize allSources.foldl State.endWindowOf s = t at hfold ⊢
    exact hfold.of_notching rfl
  · exact h

theorem State.NotchesOk.dropNotch {src : Source} {n : Notch} (hn : n ∈ vget s.notches src) :
    (s.dropNotch src n.band).NotchesOk := h.setTable ((h.channel src).dropped hn)

theorem State.NotchesOk.rewriteNotch {src : Source} {n m : Notch} (hn : n ∈ vget s.notches src) (hb : m.band = n.band)
    (hm : m.InRange s.timing.notchDecay) : (s.rewriteNotch src n m).NotchesOk :=
  h.setTable ((h.channel src).rewritten hn hb hm)

/-- An aging step of a record (R107). -/
theorem State.NotchesOk.ageStep {src : Source} {n : Notch} (hn : n ∈ vget s.notches src) :
    (s.ageStep src n).NotchesOk := by
  unfold State.ageStep
  split
  · exact h.dropNotch hn
  · next hdeep =>
    obtain ⟨-, hle, hhits, -, -⟩ := (h.channel src).table.inRange n hn
    refine h.rewriteNotch hn rfl ⟨?_, ?_, hhits, Nat.zero_le _, fun _ => rfl⟩
    · show 6 ≤ n.depth - 6
      omega
    · show n.depth - 6 ≤ 36
      omega

/-- The advance of a second (R107). -/
theorem State.NotchesOk.advanceAging : s.advanceAging.NotchesOk := by
  cases hend : s.secondEnded with
  | false =>
    unfold State.advanceAging
    rw [if_neg (by simp [hend])]
    exact h
  | true =>
    rw [State.advanceAging_eq hend h.spaced]
    refine State.notchesOk_iff.mpr fun src => ?_
    dsimp only
    rw [vget_vgen, vget_vgen, ← agedTable_self]
    refine (h.channel src).aged (List.Subset.refl _) State.agedNotch_band fun n _ hn m hm => ?_
    unfold State.agedNotch at hm
    split at hm
    · cases hm
      exact hn
    · exact hn.aged hm

/-- The completion of a section's movement (R114). -/
theorem State.NotchesOk.completeSection (src : Source) (i : SectionSlot) : (s.completeSection src i).NotchesOk := by
  unfold State.completeSection
  dsimp only
  split
  · next sec hsec =>
    split
    · exact h.setSections ((h.channel src).sections.arrived hsec)
    · exact h
  · exact h

/-- Timing settings written, the quiet times following (R15, R16). -/
theorem State.NotchesOk.setTimingOp (new : Timing) : (setTimingOp new s).NotchesOk := by
  by_cases hsame : s.timing = new
  · rw [show Machine.setTimingOp new s = s from if_pos hsame]
    exact h
  · obtain ⟨htables, -⟩ := id h
    rw [setTimingOp_eq htables hsame]
    have hretimed : (s.retimed new).NotchesOk := State.notchesOk_iff.mpr fun src => by
      unfold State.retimed
      dsimp only
      rw [vget_vgen]
      exact (h.channel src).capped new.notchDecay
    exact hretimed.of_notching (State.notching_foldl_debouncedChange _)

/-- A warm restart keeps the tables and sets the sections at their depths (R116, R167). -/
theorem State.NotchesOk.clear (cause : RestartCause) (pins : Byte) : (s.clear cause pins).NotchesOk := by
  have hcleared : (s.cleared cause pins).NotchesOk := State.notchesOk_iff.mpr fun src => by
    have hsections : vget (s.cleared cause pins).sections src = sectionsAtRest (vget s.notches src) := vget_vgen _ src
    rw [hsections]
    exact ⟨(h.channel src).table, (h.channel src).table.sectionsAtRest⟩
  refine hcleared.of_notching ?_
  unfold State.clear
  rw [State.notching_refreshGains, State.notching_foldl_takeUpDrive, State.notching_reconcileMany]

/-- A frame moves the cuts and fills the memories of the sections, and changes neither their bands nor their targets (R114,
R146). -/
theorem State.NotchesOk.frame (input : Vector Sample 16) : (s.frame input).NotchesOk := by
  obtain ⟨portA, portB, e⟩ := s.frame_eq input
  refine State.notchesOk_iff.mpr fun src => ?_
  have htiming : (s.frame input).timing = s.timing := by rw [e]; rfl
  have hnotches : (s.frame input).notches = s.notches := by rw [e]; rfl
  rw [htiming, hnotches, s.sections_frame input src]
  refine ⟨(h.channel src).table, (h.channel src).sections.of_tie fun i => ?_⟩
  obtain ⟨chain, ⟨hchain, -⟩, -, hother, hpassed⟩ := runSections_spec s.freeSerial src
    (advancedSections (vget s.sections src)) (s.isSampleOf_trimmed input src).within
  have hadvanced : (vget (advancedSections (vget s.sections src)) i).map NotchSection.tie =
      (vget (vget s.sections src) i).map NotchSection.tie := by
    unfold advancedSections
    rw [vget_vgen, Option.map_map]
    congr 1
    funext sec
    have htarget : sec.cut.advance.target = sec.cut.target := by
      unfold Slide.advance
      split <;> rfl
    simp [NotchSection.tie, htarget]
  rw [← hadvanced]
  by_cases hi : i ∈ chain
  · obtain ⟨sec, hsec, -⟩ := (hchain i).mp hi
    obtain ⟨before, after, hsplit⟩ := List.append_of_mem hi
    rw [hpassed before i after sec hsplit hsec, hsec]
    rfl
  · rw [hother i hi]

theorem State.NotchesOk.takeDueChannel (src : Source) : (s.takeDueChannel src).NotchesOk := by
  have hgates : (((s.completeOpening src).completeClosing src).completeTrim src).NotchesOk :=
    h.of_notching ((State.notching_completeTrim _ src).trans
      ((State.notching_completeClosing _ src).trans (s.notching_completeOpening src)))
  exact List.foldlRecOn allSlots _ (motive := State.NotchesOk) hgates fun _ ht i _ => ht.completeSection src i

theorem State.NotchesOk.takeDueFeed (k : FeedKey) : (s.takeDueFeed k).NotchesOk :=
  h.of_notching ((State.notching_completeFadeOut _ k).trans ((State.notching_completeFadeIn _ k).trans
    ((State.notching_completeGain _ k).trans (s.notching_completeGlide k))))

/-- What a frame takes first (log 2, log 20). -/
theorem State.NotchesOk.takeDue : s.takeDue.NotchesOk := by
  have hservice : s.switchChange.switchComplete.endEntry.completeServiceRamp.NotchesOk :=
    h.of_notching ((State.notching_completeServiceRamp _).trans ((State.notching_endEntry _).trans
      ((State.notching_switchComplete _).trans s.notching_switchChange)))
  have hchannels := List.foldlRecOn allSources State.takeDueChannel (motive := State.NotchesOk) hservice
    fun _ ht src _ => ht.takeDueChannel src
  have hfeeds := List.foldlRecOn allFeeds State.takeDueFeed (motive := State.NotchesOk) hchannels
    fun _ ht k _ => ht.takeDueFeed k
  have hmutes := hfeeds.of_notching (foldl_notching _ State.notching_completeMute allZones)
  have hblock := hmutes.of_notching (State.notching_evaluateBlock _)
  exact hblock.endWindow.advanceAging

/-! ### The notch requests -/

/-- ADD_NOTCH away from every other notch (R109). -/
theorem State.NotchesOk.placeFixed {src : Source} {b : Band}
    (hfar : (vget s.notches src).any (Notch.near b) = false) (d : Byte) :
    (s.placeNotch src ⟨b, asDepth d, .fixed, 0, 0⟩).NotchesOk := by
  obtain ⟨hge, hle⟩ := asDepth_inRange d
  rw [State.placeNotch_eq]
  refine h.setTable ((h.channel src).placed (fun m hm hmatch => ?_) ⟨hge, hle, Nat.zero_le _, Nat.zero_le _, fun _ => rfl⟩)
  exact Bool.false_ne_true (hfar.symm.trans (List.any_eq_true.mpr ⟨m, hm, Notch.near_iff.mpr hmatch⟩))

/-- EDIT_NOTCH of a record (R110). -/
theorem State.NotchesOk.editNotch {src : Source} {n : Notch} (hn : n ∈ vget s.notches src) (d : Byte) (k : NotchKind) :
    (s.rewriteNotch src n { n with
      depth := asDepth d, kind := k, quietTime := if n.kind = k then n.quietTime else 0 }).NotchesOk := by
  obtain ⟨hge, hle⟩ := asDepth_inRange d
  obtain ⟨-, -, hhits, hquiet, hfixed⟩ := (h.channel src).table.inRange n hn
  refine h.rewriteNotch hn rfl ⟨hge, hle, hhits, ?_, fun hk => ?_⟩
  · dsimp only
    split
    · exact hquiet
    · exact Nat.zero_le _
  · dsimp only at hk ⊢
    split
    · next hsame => exact hfixed (hsame.trans hk)
    · rfl

/-- CLEAR_DYNAMIC (R112). -/
theorem State.NotchesOk.clearDynamic (src : Source) : (s.clearDynamic src).NotchesOk := by
  rw [State.clearDynamic_eq (h.spaced src)]
  exact h.setTable (h.channel src).cleared

/-! ### Every command -/

theorem State.NotchesOk.onRise_leaves {act : State → Reply} (received : List Byte) (hact : (act s).2.2.NotchesOk) :
    Leaves State.NotchesOk (onRise received s act) := by
  unfold onRise
  dsimp only
  split
  · split
    · exact leaves_next.mpr (h.of_notching rfl)
    · exact leaves_next.mpr (hact.of_notching rfl)
  · exact leaves_next.mpr (h.of_notching rfl)

theorem State.NotchesOk.onRequest_leaves {act : State → Reply} (i : Instr) (hact : (act s).2.2.NotchesOk) :
    Leaves State.NotchesOk (onRequest i s act) := h.onRise_leaves _ hact

/-- A request whose rule leaves the Notch Tables and sections. -/
theorem State.NotchesOk.onRequest_same {act : State → Reply} (i : Instr) (hact : (act s).2.2.notching = s.notching) :
    Leaves State.NotchesOk (onRequest i s act) := h.onRequest_leaves i (h.of_notching hact)

/-- An event that leaves the Notch Tables and sections. -/
theorem State.NotchesOk.next_same {t : State} (e : t.notching = s.notching) : Leaves State.NotchesOk (.next t) :=
  leaves_next.mpr (h.of_notching e)

/-- Every command leaves the Notch Tables in shape. -/
theorem State.NotchesOk.exec_leaves (i : Instr) : Leaves State.NotchesOk (exec i s) := by
  cases i with dsimp only [exec]
  | nop | identify | ackEvents | setEventMask | getClock | getAlignment | getTiming | listLimited | getPool | getMeters
  | getZoneMeters | getCueStatus => exact h.onRequest_same _ rfl
  | getCause =>
    refine h.onRequest_same _ ?_
    dsimp only [State.afterCause]
    split <;> rfl
  | standby => exact h.onRequest_same _ s.notching_beginStandby
  | wake => exact h.onRequest_same _ s.notching_wake
  | restart =>
    refine h.next_same ?_
    split <;> rfl
  | setClock | getZone | getArea | findAtStation | getSource | setCue =>
    refine h.onRequest_same _ ?_
    split <;> rfl
  | listNotches source =>
    refine h.onRequest_same _ ?_
    dsimp only
    split <;> rfl
  | getStation | getPlacement | getFeed =>
    refine h.onRequest_same _ ?_
    split
    · split <;> rfl
    · rfl
  | setStation station position reach =>
    refine h.onRequest_same _ ?_
    split
    · exact notching_setStationOp s _ _ _
    · rfl
  | clearStation station =>
    refine h.onRequest_same _ ?_
    split
    · split
      · rfl
      · split <;> rfl
    · rfl
  | setZone payload =>
    refine h.onRequest_same _ ?_
    split
    · exact notching_setZoneOp s _ _
    · rfl
  | setArea area mode service =>
    refine h.onRequest_same _ ?_
    split
    · split
      · rfl
      · exact notching_setAreaOp s _ _
    · rfl
  | setTemperature temperature => exact h.onRequest_same _ (notching_reportTemperature s _)
  | setTiming payload =>
    refine h.onRequest_leaves _ ?_
    split
    · exact h.setTimingOp _
    · exact h
  | place source station service level =>
    refine h.onRequest_same _ ?_
    split
    · exact notching_placeOp s _ _ _ _
    · rfl
  | move source station =>
    refine h.onRequest_same _ ?_
    split
    · exact notching_moveOp s _ _
    · rfl
  | setLevel source level =>
    refine h.onRequest_same _ ?_
    split
    · exact notching_setLevelOp s _ _
    · rfl
  | retire source =>
    refine h.onRequest_same _ ?_
    split
    · exact notching_retireOp s _
    · rfl
  | setSource payload =>
    refine h.onRequest_same _ ?_
    split
    · exact notching_setSourceOp s _ _
    · rfl
  | setGateMode source mode =>
    refine h.onRequest_same _ ?_
    split
    · exact notching_setGateModeOp s _ _
    · rfl
  | addNotch source band depth =>
    refine h.onRequest_leaves _ ?_
    split
    · split
      · exact h
      · next hfar =>
        split
        · exact h
        · exact h.placeFixed (Bool.eq_false_iff.mpr hfar) depth
    · exact h
  | editNotch source band depth kind =>
    refine h.onRequest_leaves _ ?_
    split
    · split
      · next hfound => exact h.editNotch (notchAt_some hfound).1 depth _
      · exact h
    · exact h
  | retireNotch source band =>
    refine h.onRequest_leaves _ ?_
    split
    · split
      · next hfound =>
        obtain ⟨hn, rfl⟩ := notchAt_some hfound
        exact h.dropNotch hn
      · exact h
    · exact h
  | clearDynamic source =>
    refine h.onRequest_leaves _ ?_
    split
    · exact h.clearDynamic _
    · exact h
  | frameRejected received =>
    unfold execFrameRejected
    split
    · exact h.onRise_leaves received h
    · exact leaves_next.mpr h
  | powerOnReset cuePins =>
    refine leaves_next.mpr (State.notchesOk_iff.mpr fun src => ?_)
    show ChannelOk _ (vget (vgen fun _ => []) src) (vget (vgen fun _ => vgen fun _ => none) src)
    rw [vget_vgen, vget_vgen]
    exact channelOk_empty _
  | resetPin =>
    refine h.next_same ?_
    dsimp only
    split <;> rfl
  | clearing cuePins =>
    refine leaves_next.mpr ?_
    split
    · split
      · exact h.clear _ _
      · exact h
    · exact h
  | derivation => exact h.next_same s.notching_derive
  | glideComplete source zone => exact h.next_same (s.notching_completeGlide _)
  | fadeInComplete source zone => exact h.next_same (s.notching_completeFadeIn _)
  | fadeOutComplete source zone => exact h.next_same (s.notching_completeFadeOut _)
  | audioFrame input =>
    refine leaves_next.mpr ?_
    split
    · exact h.takeDue.frame input
    · exact h
  | blockEvaluation => exact h.next_same s.notching_evaluateBlock
  | holdExpiry source => exact h.next_same (s.notching_expireHold source)
  | openingComplete source => exact h.next_same (s.notching_completeOpening source)
  | closingComplete source => exact h.next_same (s.notching_completeClosing source)
  | trimRampComplete source => exact h.next_same (s.notching_completeTrim source)
  | windowEnd => exact leaves_next.mpr h.endWindow
  | ringCandidate source band =>
    refine leaves_next.mpr ?_
    split
    · exact h.handOver source band
    · exact h
  | agingAdvance => exact leaves_next.mpr h.advanceAging
  | agingStep source band =>
    refine leaves_next.mpr ?_
    split
    · next hfound =>
      split
      · exact (h.ageStep (notchAt_some hfound).1).of_notching rfl
      · exact h
    · exact h
  | sectionMovementComplete source slot => exact leaves_next.mpr (h.completeSection source slot)
  | gainMovementComplete source zone => exact h.next_same (s.notching_completeGain _)
  | muteRampComplete zone => exact h.next_same (s.notching_completeMute zone)
  | debouncedChange line => exact h.next_same (s.notching_debouncedChange line)
  | frameSyncArrival interval => exact h.next_same (s.notching_arrival interval)
  | missedFrame => exact h.next_same s.notching_missFrame
  | presenceCountFull => exact h.next_same s.notching_startLock
  | lockChange => exact h.next_same s.notching_lockChange
  | clockLoss => exact h.next_same s.notching_loseClock
  | switchChange => exact h.next_same s.notching_switchChange
  | switchComplete => exact h.next_same s.notching_switchComplete
  | standbyEntryComplete => exact h.next_same s.notching_endEntry
  | serviceRampComplete => exact h.next_same s.notching_completeServiceRamp
  | transactionStart =>
    refine h.next_same ?_
    split <;> rfl
  | cuePinSample pins => exact h.next_same s.notching_foldl_debouncedChange

end

/-- Settles O57: each command keeps each channel's table and sections in shape, or leaves them (R103, R114). -/
theorem notchTablesStayInShape : Obligations.NotchTablesStayInShape := by
  unfold Obligations.NotchTablesStayInShape
  intro s t h hstep
  refine step_leaves h (fun i rest => ?_) hstep
  have hpopped : ({ s with pending := rest } : State).NotchesOk := h.of_notching rfl
  exact hpopped.exec_leaves i

end Sys2Proof.Machine
end

section
/-! ## Which section a new notch takes -/

namespace Sys2Proof.Machine

/-- The first of ascending numbers that has a property is the least that has it. -/
theorem find?_eq_some_of_least {n : Nat} {l : List (Fin n)} (hl : l.Pairwise (· < ·)) {p : Fin n → Bool} {i : Fin n}
    (hi : i ∈ l) (hp : p i = true) (hleast : ∀ j, j < i → p j = false) : l.find? p = some i := by
  cases hf : l.find? p with
  | none => exact absurd hp (by simpa using List.find?_eq_none.mp hf i hi)
  | some j =>
    obtain ⟨hj, before, after, rfl, hbefore⟩ := List.find?_eq_some_iff_append.mp hf
    rcases List.mem_append.mp hi with hin | hin
    · simpa [hp] using hbefore i hin
    · rcases List.mem_cons.mp hin with rfl | hin
      · rfl
      · obtain ⟨-, hafter, -⟩ := List.pairwise_append.mp hl
        have hlt := (List.pairwise_cons.mp hafter).1 i hin
        rw [hleast j hlt] at hj
        cases hj

section
variable {secs : Vector (Option NotchSection) 16} {i : SectionSlot}

theorem outgoingLeft_eq_some {n : Nat} : outgoingLeft (vget secs i) = some n ↔
    ∃ sec, vget secs i = some sec ∧ sec.outgoing = true ∧ sec.framesLeft = n := by
  cases vget secs i with
  | none => simp [outgoingLeft]
  | some sec =>
    have hleft : sec.cut.left.getD 0 = sec.framesLeft := by
      unfold NotchSection.framesLeft
      cases sec.cut.left <;> rfl
    simp [outgoingLeft, hleft]

/-- The lowest free section is taken (R114; log 18). -/
theorem sectionFor_free (hi : vget secs i = none) (hlow : ∀ j, j < i → vget secs j ≠ none) :
    sectionFor secs = some i := by
  have hfind : allSlots.find? (fun j => (vget secs j).isNone) = some i :=
    find?_eq_some_of_least (List.pairwise_lt_finRange 16) (mem_allSlots i) (by simp [hi])
      fun j hj => by simpa [Option.isSome_iff_ne_none] using hlow j hj
  rw [sectionFor, hfind]

section
variable {n : Nat} (hi : outgoingLeft (vget secs i) = some n)
  (hleast : ∀ j m, outgoingLeft (vget secs j) = some m → n < m ∨ (n = m ∧ i ≤ j))
include hi hleast

/-- The earliest started stays the choice whatever comes after it. -/
theorem foldl_earlierOutgoing_kept (slots : List SectionSlot) :
    slots.foldl (earlierOutgoing secs) (some i) = some i := by
  induction slots with
  | nil => rfl
  | cons a rest ih =>
    have hstep : earlierOutgoing secs (some i) a = some i := by
      unfold earlierOutgoing
      cases ha : outgoingLeft (vget secs a) with
      | none => rfl
      | some m =>
        have hle : ¬ m < n := by rcases hleast a m ha with h | h <;> omega
        simp [hi, hle]
    rw [List.foldl_cons, hstep, ih]

/-- The earliest started, the lower of two that started together, is the choice once the slots come to it (log 18). -/
theorem foldl_earlierOutgoing {slots : List SectionSlot} (hs : slots.Pairwise (· < ·)) (hmem : i ∈ slots)
    {best : Option SectionSlot} (hbest : ∀ j, best = some j → j < i ∧ (outgoingLeft (vget secs j)).isSome) :
    slots.foldl (earlierOutgoing secs) best = some i := by
  induction slots generalizing best with
  | nil => cases hmem
  | cons a rest ih =>
    obtain ⟨ha, hrest⟩ := List.pairwise_cons.mp hs
    rw [List.foldl_cons]
    rcases List.mem_cons.mp hmem with rfl | hmem
    · have hstep : earlierOutgoing secs best i = some i := by
        unfold earlierOutgoing
        rw [hi]
        cases best with
        | none => rfl
        | some j =>
          obtain ⟨hj, hout⟩ := hbest j rfl
          obtain ⟨m, hm⟩ := Option.isSome_iff_exists.mp hout
          have hlt : n < m := (hleast j m hm).resolve_right fun h => absurd hj (not_lt.mpr h.2)
          simp [hm, hlt]
      rw [hstep]
      exact foldl_earlierOutgoing_kept hi hleast rest
    · refine ih hrest hmem fun j hj => ?_
      unfold earlierOutgoing at hj
      cases hleft : outgoingLeft (vget secs a) with
      | none =>
        rw [hleft] at hj
        exact hbest j hj
      | some m =>
        have hnew : a < i ∧ (outgoingLeft (vget secs a)).isSome := ⟨ha i hmem, by simp [hleft]⟩
        rw [hleft] at hj
        cases best with
        | none =>
          cases hj
          exact hnew
        | some k =>
          dsimp only at hj
          split at hj
          · cases hj
            exact hnew
          · exact hbest j hj

/-- Where no section is free, the outgoing one whose movement started earliest is taken (R114; log 18). -/
theorem sectionFor_earliest (hfull : ∀ j, vget secs j ≠ none) : sectionFor secs = some i := by
  have hnone : allSlots.find? (fun j => (vget secs j).isNone) = none :=
    List.find?_eq_none.mpr fun j _ => by simpa using hfull j
  rw [sectionFor, hnone]
  exact foldl_earlierOutgoing hi hleast (List.pairwise_lt_finRange 16) (mem_allSlots i) fun j hj => by cases hj

end

/-- Where every section is a notch's, none is taken. -/
theorem sectionFor_none (hall : ∀ j, ∃ sec, vget secs j = some sec ∧ sec.outgoing = false) : sectionFor secs = none := by
  obtain ⟨hspare, -⟩ := sectionFor_spec secs
  cases hs : sectionFor secs with
  | none => rfl
  | some j =>
    obtain ⟨sec, hj, ho⟩ := hall j
    rcases hspare j hs with hfree | ⟨sec', hj', ho'⟩
    · rw [hfree] at hj
      cases hj
    · rw [hj] at hj'
      cases hj'
      rw [ho] at ho'
      cases ho'

theorem placeSection_of_sectionFor (h : sectionFor secs = some i) (band : Band) (depth : Nat) :
    placeSection secs band depth = vset secs i (some (NotchSection.placed band depth)) := by
  rw [placeSection, h]

end

theorem NotchSection.serves_iff {b : Band} {sec : NotchSection} :
    NotchSection.serves b (some sec) = true ↔ sec.band = b ∧ sec.outgoing = false := by
  simp [NotchSection.serves]

/-- Settles O35: a movement starts in the section that serves the band, and a placed notch takes the section that the
search over the slots finds (R114; log 18). -/
theorem sectionsFollow : Obligations.SectionsFollow := by
  unfold Obligations.SectionsFollow
  intro secs band depth new
  refine ⟨fun i => ?_, fun i => ?_, fun i hi hlow => ?_, fun i sec hfull hi hout hleast => ?_, fun hall => ?_⟩
  · simp only [vget_retuneSection, NotchSection.serves_iff]
    rfl
  · simp only [vget_retireSection, NotchSection.serves_iff]
    rfl
  · exact placeSection_of_sectionFor (sectionFor_free hi hlow) band depth
  · have hleft : outgoingLeft (vget secs i) = some sec.framesLeft := outgoingLeft_eq_some.mpr ⟨sec, hi, hout, rfl⟩
    refine placeSection_of_sectionFor (sectionFor_earliest hleft (fun j m hj => ?_) hfull) band depth
    obtain ⟨other, hother, hout', rfl⟩ := outgoingLeft_eq_some.mp hj
    exact hleast j other hother hout'
  · rw [placeSection, sectionFor_none hall]

end Sys2Proof.Machine
end

section
/-! ## Candidates, ADD_NOTCH and the edits of a table -/

namespace Sys2Proof.Machine

/-! ### What the shared operations leave -/

section
variable {s : State} {src : Source} (ht : Spaced (vget s.notches src))
include ht

/-- A record rewritten is rewritten alone, and its section moves where the depth changes (R104, R110, R114). -/
theorem State.rewriteNotch_eq {n : Notch} (hn : n ∈ vget s.notches src) (m : Notch) : s.rewriteNotch src n m = { s with
    notches := vset s.notches src ((vget s.notches src).map fun a => if a = n then m else a)
    sections := if n.depth = m.depth then s.sections
      else vset s.sections src (retuneSection (vget s.sections src) n.band m.depth) } := by
  have htable : changeNotch n.band (fun _ => m) (vget s.notches src) =
      (vget s.notches src).map fun a => if a = n then m else a :=
    List.map_congr_left fun a ha => by simp only [ht.band_eq_iff ha hn]
  unfold State.rewriteNotch
  rw [htable]
  split
  · unfold State.setTable State.setNotches State.setSections
    rw [vset_vget_self]
  · rfl

/-- A full table gives its weakest DYNAMIC record up for the one placed (R105, R109). -/
theorem State.placeNotch_evicts (h8 : (vget s.notches src).length = 8) {w : Notch} (hw : IsWeakest (vget s.notches src) w)
    (n : Notch) :
    s.placeNotch src n = { s with
      notches := (s.placeNotch src n).notches
      sections := vset s.sections src
        (placeSection (retireSection (vget s.sections src) w.band) n.band n.depth) } ∧
    (∀ other, other ≠ src → vget (s.placeNotch src n).notches other = vget s.notches other) ∧
    ∀ m, m ∈ vget (s.placeNotch src n).notches src ↔ m = n ∨ (m ∈ vget s.notches src ∧ m ≠ w) := by
  obtain ⟨hmem, -, -⟩ := id hw
  rw [State.placeNotch_eq, placedChannel_evicts ht h8 hw]
  refine ⟨rfl, fun other hne => vget_vset_other _ _ hne.symm, fun m => ?_⟩
  rw [State.setTable_notches, vget_vset_same, mem_insertNotch_evicted ht hmem]

end

/-- A table with room takes the record placed (R105, R109). -/
theorem State.placeNotch_room {s : State} {src : Source} (hroom : (vget s.notches src).length < 8) (n : Notch) :
    s.placeNotch src n = { s with
      notches := (s.placeNotch src n).notches
      sections := vset s.sections src (placeSection (vget s.sections src) n.band n.depth) } ∧
    (∀ other, other ≠ src → vget (s.placeNotch src n).notches other = vget s.notches other) ∧
    ∀ m, m ∈ vget (s.placeNotch src n).notches src ↔ m = n ∨ m ∈ vget s.notches src := by
  rw [State.placeNotch_eq, placedChannel_room hroom]
  refine ⟨rfl, fun other hne => vget_vset_other _ _ hne.symm, fun m => ?_⟩
  rw [State.setTable_notches, vget_vset_same, mem_insertNotch]

theorem not_tableSaturated_of_dynamic {t : List Notch} {w : Notch} (hw : IsWeakest t w) : tableSaturated t = false := by
  obtain ⟨hmem, hk, -⟩ := hw
  refine Bool.eq_false_iff.mpr fun hsat => ?_
  rw [(tableSaturated_iff.mp hsat).2 w hmem] at hk
  cases hk

theorem not_tableSaturated_of_room {t : List Notch} (h : t.length < 8) : tableSaturated t = false :=
  Bool.eq_false_iff.mpr fun hsat => absurd (tableSaturated_iff.mp hsat).1 (by omega)

/-! ### RING_CANDIDATE -/

/-- The candidate of a detector that runs is handed over with the detector starting afresh (R99, R101). -/
theorem exec_ringCandidate {s : State} {src : Source} (h : s.detectorRuns src = true) (b : Band) :
    exec (.ringCandidate src b) s =
      .next ((s.setDetector src { vget s.detectors src with count := 0, runBand := none }).handleCandidate src b) :=
  congrArg Host.Outcome.next (if_pos h)

/-- A candidate with no match in a table that is not saturated is placed (R105). -/
theorem State.handleCandidate_placed {s : State} {src : Source} {b : Band}
    (hoff : ∀ n ∈ vget s.notches src, ¬ bandsMatch b n.band) (hsat : tableSaturated (vget s.notches src) = false) :
    s.handleCandidate src b = s.placeNotch src ⟨b, 12, .dynamic, 0, 1⟩ := by
  simp [State.handleCandidate, matchingNotch_none.mpr hoff, State.saturated, hsat]

/-- Settles O36: the candidate hits the match that R104 names; unmatched, it is placed where the table is not saturated
and dropped where it is (R105, R106). -/
theorem ringCandidateHandled : Obligations.RingCandidateHandled := by
  unfold Obligations.RingCandidateHandled
  intro s src b hruns hok table after
  have hspaced : Spaced (vget after.notches src) := hok.spaced src
  have hexec : exec (.ringCandidate src b) s = .next (after.handleCandidate src b) := exec_ringCandidate hruns b
  rw [hexec]
  refine ⟨fun n hn hmatch hnearest => ?_, fun hoff => ?_⟩
  · intro hit
    have hfound : matchingNotch b (vget after.notches src) = some n :=
      matchingNotch_eq_some hspaced hn hmatch hnearest
    have hhit : after.handleCandidate src b = after.rewriteNotch src n n.hit := by
      rw [State.handleCandidate, hfound]
    have hdepth : n.depth = n.hit.depth ↔ n.depth = 36 := by
      have hle := ((hok.channel src).table.inRange n hn).depth_le
      show n.depth = min 36 (n.depth + 6) ↔ n.depth = 36
      omega
    rw [hhit, State.rewriteNotch_eq hspaced hn]
    simp only [hdepth]
    rfl
  · intro new
    refine ⟨fun hroom => ?_, fun h8 w hw => ?_, fun h8 hfixed => ?_⟩
    · rw [State.handleCandidate_placed (s := after) hoff (not_tableSaturated_of_room hroom)]
      exact ⟨_, rfl, after.placeNotch_room hroom new⟩
    · rw [State.handleCandidate_placed (s := after) hoff (not_tableSaturated_of_dynamic hw)]
      exact ⟨_, rfl, State.placeNotch_evicts hspaced h8 hw new⟩
    · rw [State.handleCandidate_dropped (s := after) ⟨h8, fun n hn => ⟨hfixed n hn, hoff n hn⟩⟩]
      rfl

/-! ### ADD_NOTCH -/

section
variable {s : State} {a b d k : Byte} {src : Source} {band : Band} (h : s.takesRequest = true)
include h

theorem exec_addNotch_outOfRange (hab : 16 ≤ a.toNat ∨ 208 ≤ b.toNat) :
    exec (.addNotch a b d) s = .next (s.respond .outOfRange 0x39 []) := by
  show execAddNotch a b d s = _
  refine onRequest_answers rfl h ?_
  rcases hab with ha | hb
  · simp only [asId_of_le ha, refuse]
  · simp only [asId_of_le hb, refuse]
    cases asId 16 a <;> rfl

/-- ADD_NOTCH by its checks in their order (R109). -/
theorem exec_addNotch (ha : a.toNat = src.val) (hb : b.toNat = band.val) : exec (.addNotch a b d) s = .next (
    if (vget s.notches src).any (Notch.near band) then s.respond .tooClose 0x39 []
    else if tableSaturated (vget s.notches src) then s.respond .tableFull 0x39 []
    else (s.placeNotch src ⟨band, asDepth d, .fixed, 0, 0⟩).respond .ok 0x39 []) := by
  show execAddNotch a b d s = _
  by_cases hnear : (vget s.notches src).any (Notch.near band) = true
  · rw [if_pos hnear]
    exact onRequest_answers rfl h (by simp only [asId_of_eq src ha, asId_of_eq band hb, hnear, if_true, refuse])
  · rw [if_neg hnear]
    by_cases hsat : tableSaturated (vget s.notches src) = true
    · rw [if_pos hsat]
      exact onRequest_answers rfl h (by
        simp only [asId_of_eq src ha, asId_of_eq band hb, hnear, State.saturated, hsat, if_true, refuse]
        rfl)
    · rw [if_neg hsat]
      exact onRequest_answers rfl h (by
        simp only [asId_of_eq src ha, asId_of_eq band hb, hnear, State.saturated, hsat, accept]
        rfl)

theorem exec_addNotch_placed (ha : a.toNat = src.val) (hb : b.toNat = band.val)
    (hoff : ∀ n ∈ vget s.notches src, ¬ bandsMatch band n.band) (hsat : tableSaturated (vget s.notches src) = false) :
    exec (.addNotch a b d) s =
      .next ((s.placeNotch src ⟨band, asDepth d, .fixed, 0, 0⟩).respond .ok 0x39 []) := by
  have hfar : (vget s.notches src).any (Notch.near band) = false :=
    List.any_eq_false.mpr fun n hn hnear => hoff n hn (Notch.near_iff.mp hnear)
  rw [exec_addNotch h ha hb, hfar, hsat]
  rfl

end

/-- Settles O39: the checks of ADD_NOTCH in their order, and the record placed where they pass (R105, R109, R114). -/
theorem addNotchEffects : Obligations.AddNotchEffects := by
  unfold Obligations.AddNotchEffects
  refine fun a b d s h hok => ⟨exec_addNotch_outOfRange h, fun src band ha hb => ?_⟩
  intro table depth new
  refine ⟨fun ⟨n, hn, hmatch⟩ => ?_, fun hoff => ⟨fun h8 hfixed => ?_, fun hroom => ?_, fun h8 w hw => ?_⟩⟩
  · have hnear : (vget s.notches src).any (Notch.near band) = true :=
      List.any_eq_true.mpr ⟨n, hn, Notch.near_iff.mpr hmatch⟩
    rw [exec_addNotch h ha hb, if_pos hnear]
  · have hfar : ¬ (vget s.notches src).any (Notch.near band) = true := fun hany => by
      obtain ⟨n, hn, hnear⟩ := List.any_eq_true.mp hany
      exact hoff n hn (Notch.near_iff.mp hnear)
    rw [exec_addNotch h ha hb, if_neg hfar, if_pos (tableSaturated_iff.mpr ⟨h8, hfixed⟩)]
  · exact ⟨_, exec_addNotch_placed h ha hb hoff (not_tableSaturated_of_room hroom), s.placeNotch_room hroom new⟩
  · exact ⟨_, exec_addNotch_placed h ha hb hoff (not_tableSaturated_of_dynamic hw),
      State.placeNotch_evicts (hok.spaced src) h8 hw new⟩

/-! ### EDIT_NOTCH, RETIRE_NOTCH and CLEAR_DYNAMIC -/

section
variable {s : State} {a b d k : Byte} {src : Source} {band : Band} (h : s.takesRequest = true)
include h

theorem exec_editNotch_outOfRange (hab : 16 ≤ a.toNat ∨ 208 ≤ b.toNat ∨ 2 ≤ k.toNat) :
    exec (.editNotch a b d k) s = .next (s.respond .outOfRange 0x3A []) := by
  show execEditNotch a b d k s = _
  refine onRequest_answers rfl h ?_
  rcases hab with ha | hb | hk
  · simp only [asId_of_le ha, refuse]
  · simp only [asId_of_le hb, refuse]
    cases asId 16 a <;> rfl
  · simp only [asNotchKind_of_le hk, refuse]
    cases asId 16 a <;> cases asId 208 b <;> rfl

theorem exec_retireNotch_outOfRange (hab : 16 ≤ a.toNat ∨ 208 ≤ b.toNat) :
    exec (.retireNotch a b) s = .next (s.respond .outOfRange 0x3B []) := by
  show execRetireNotch a b s = _
  refine onRequest_answers rfl h ?_
  rcases hab with ha | hb
  · simp only [asId_of_le ha, refuse]
  · simp only [asId_of_le hb, refuse]
    cases asId 16 a <;> rfl

theorem exec_clearDynamic_outOfRange (ha : 16 ≤ a.toNat) :
    exec (.clearDynamic a) s = .next (s.respond .outOfRange 0x3C []) := by
  show execClearDynamic a s = _
  exact onRequest_answers rfl h (by simp only [asId_of_le ha, refuse])

theorem exec_clearDynamic (ha : a.toNat = src.val) :
    exec (.clearDynamic a) s = .next ((s.clearDynamic src).respond .ok 0x3C []) := by
  show execClearDynamic a s = _
  exact onRequest_answers rfl h (by simp only [asId_of_eq src ha, accept])

variable (ha : a.toNat = src.val) (hb : b.toNat = band.val)
include ha hb

theorem exec_retireNotch_absent (hoff : ∀ n ∈ vget s.notches src, n.band ≠ band) :
    exec (.retireNotch a b) s = .next (s.respond .absent 0x3B []) := by
  show execRetireNotch a b s = _
  exact onRequest_answers rfl h (by
    simp only [asId_of_eq src ha, asId_of_eq band hb, notchAt_none.mpr hoff, refuse])

theorem exec_retireNotch {n : Notch} (hn : notchAt band (vget s.notches src) = some n) :
    exec (.retireNotch a b) s = .next ((s.dropNotch src band).respond .ok 0x3B []) := by
  show execRetireNotch a b s = _
  exact onRequest_answers rfl h (by simp only [asId_of_eq src ha, asId_of_eq band hb, hn, accept])

variable {kind : NotchKind} (hk : k.toNat = kind.code)
include hk

theorem exec_editNotch_absent (hoff : ∀ n ∈ vget s.notches src, n.band ≠ band) :
    exec (.editNotch a b d k) s = .next (s.respond .absent 0x3A []) := by
  show execEditNotch a b d k s = _
  exact onRequest_answers rfl h (by
    simp only [asId_of_eq src ha, asId_of_eq band hb, asNotchKind_of_eq kind hk, notchAt_none.mpr hoff, refuse])

theorem exec_editNotch {n : Notch} (hn : notchAt band (vget s.notches src) = some n) :
    exec (.editNotch a b d k) s = .next ((s.rewriteNotch src n { n with
      depth := asDepth d, kind := kind, quietTime := if n.kind = kind then n.quietTime else 0 }).respond .ok 0x3A []) := by
  show execEditNotch a b d k s = _
  exact onRequest_answers rfl h (by
    simp only [asId_of_eq src ha, asId_of_eq band hb, asNotchKind_of_eq kind hk, hn, accept])

end

/-- A section among those whose DYNAMIC records are taken out (R112, R114). -/
theorem agedSection_cleared (t : List Notch) (sec : NotchSection) :
    agedSection (fun _ => none) (t.filter (·.kind == .dynamic)) sec =
      if sec.outgoing = false ∧ ∃ n ∈ t, n.kind = .dynamic ∧ n.band = sec.band then
        { sec with outgoing := true, cut := ⟨sec.cut.value, 0, some 2400⟩ } else sec := by
  cases ho : sec.outgoing with
  | true => rw [agedSection_of_outgoing _ _ ho, if_neg (by simp)]
  | false =>
    cases hf : notchAt sec.band (t.filter (·.kind == .dynamic)) with
    | none =>
      have hoff : ¬ ∃ n ∈ t, n.kind = .dynamic ∧ n.band = sec.band := fun ⟨n, hn, hk, hb⟩ =>
        notchAt_none.mp hf n (List.mem_filter.mpr ⟨hn, by simp [hk]⟩) hb
      rw [agedSection_of_none _ hf, if_neg fun hc => hoff hc.2]
    | some n =>
      obtain ⟨hmem, hb⟩ := notchAt_some hf
      obtain ⟨hn, hk⟩ := List.mem_filter.mp hmem
      rw [agedSection_of_some _ ho hf, if_pos ⟨rfl, n, hn, by simpa using hk, hb⟩]
      rfl

/-- Settles O40: each request finds its record by its band, or refuses, and its section follows (R110, R111, R112, R114). -/
theorem notchEdits : Obligations.NotchEdits := by
  unfold Obligations.NotchEdits
  refine fun a b d k s h hok => ⟨exec_editNotch_outOfRange h, exec_retireNotch_outOfRange h,
    exec_clearDynamic_outOfRange h, fun src ha => ?_⟩
  intro table secs
  have hspaced : Spaced (vget s.notches src) := hok.spaced src
  refine ⟨⟨_, exec_clearDynamic h ha, ?cleared⟩, fun band hb => ⟨fun hoff => ?absent, fun n hn hband => ?found⟩⟩
  case cleared =>
    rw [State.clearDynamic_eq hspaced]
    have htable : table.filter (·.kind == .fixed) = table.filter fun n => n.kind = .fixed :=
      List.filter_congr fun n _ => by rw [beq_eq_decide]
    refine ⟨by rw [← htable]; rfl, fun other hne => vget_vset_other _ _ hne.symm, fun i => ?_⟩
    rw [State.setTable_sections, vget_vset_same, vget_agedSections]
    congr 1
    funext sec
    exact agedSection_cleared table sec
  case absent => exact ⟨exec_retireNotch_absent h ha hb hoff, fun kind hk => exec_editNotch_absent h ha hb hk hoff⟩
  case found =>
    have hfound : notchAt band (vget s.notches src) = some n := hspaced.notchAt_eq_some_iff.mpr ⟨hn, hband⟩
    refine ⟨exec_retireNotch h ha hb hfound, fun kind hk => ?_⟩
    intro depth
    have hedited : (table.map fun m : Notch => if m = n then
          { n with depth := depth, kind := kind, quietTime := if n.kind = kind then n.quietTime else 0 } else m) =
        table.map fun m : Notch => if m.band = band then
          { m with depth := depth, kind := kind, quietTime := if m.kind = kind then m.quietTime else 0 } else m := by
      refine List.map_congr_left fun m hm => ?_
      by_cases e : m = n
      · subst e
        rw [if_pos rfl, if_pos hband]
      · rw [if_neg e, if_neg fun hb' => e ((hspaced.band_eq_iff hm hn).mp (hb'.trans hband.symm))]
    rw [exec_editNotch h ha hb hk hfound, State.rewriteNotch_eq hspaced hn, ← hedited, ← hband]
    rfl

end Sys2Proof.Machine
end

section
/-! ## WINDOW_END -/

namespace Sys2Proof.Machine

/-! ### The candidate of a window -/

/-- A fold over ascending bands keeps the highest level and, of bands that share it, the lowest. -/
theorem foldl_highest {levels : Band → Int} {bands : List Band} (hb : bands.Pairwise (· < ·)) {best : Band}
    (hbest : ∀ c ∈ bands, best ≤ c) {top : Band}
    (htop : bands.foldl (fun best b => if levels best < levels b then b else best) best = top) :
    ∀ c ∈ best :: bands, levels c ≤ levels top ∧ (levels c = levels top → top ≤ c) := by
  induction bands generalizing best with
  | nil =>
    subst htop
    simp
  | cons a rest ih =>
    obtain ⟨ha, hrest⟩ := List.pairwise_cons.mp hb
    rw [List.foldl_cons] at htop
    intro c hc
    by_cases hlt : levels best < levels a
    · rw [if_pos hlt] at htop
      have hafter := ih hrest (fun c hc => (ha c hc).le) htop
      obtain ⟨hale, -⟩ := hafter a (.head _)
      rcases List.mem_cons.mp hc with rfl | hc
      · exact ⟨by omega, fun e => by omega⟩
      · exact hafter c hc
    · rw [if_neg hlt] at htop
      have hafter := ih hrest (fun c hc => hbest c (.tail _ hc)) htop
      obtain ⟨hle, hlow⟩ := hafter best (.head _)
      rcases List.mem_cons.mp hc with rfl | hc
      · exact hafter c (.head _)
      · rcases List.mem_cons.mp hc with rfl | hc
        · exact ⟨by omega, fun e => (hlow (by omega)).trans (hbest c (.head _))⟩
        · exact hafter c (.tail _ hc)

/-- The highest band is the lowest of those with the highest level, and no other band is (R100). -/
theorem highestBand_eq_iff {levels : Band → Int} {b : Band} : highestBand levels = b ↔
    (∀ c, levels c ≤ levels b) ∧ ∀ c, levels c = levels b → b ≤ c := by
  have hspec := foldl_highest (levels := levels) (List.pairwise_lt_finRange 208) (best := 0)
    (fun c _ => Fin.zero_le c) (top := highestBand levels) rfl
  have hbands (c : Band) := hspec c (.tail _ (mem_allBands c))
  refine ⟨fun e => e ▸ ⟨fun c => (hbands c).1, fun c => (hbands c).2⟩, fun ⟨hle, hlow⟩ => ?_⟩
  have hsame : levels b = levels (highestBand levels) := le_antisymm (hbands b).1 (hle _)
  exact le_antisymm ((hbands b).2 hsame) (hlow _ hsame.symm)

theorem candidateBand_eq_some {levels : Band → Int} {margin : Nat} {b : Band} :
    candidateBand levels margin = some b ↔
      highestBand levels = b ∧ meanLevel levels + margin ≤ levels b ∧ -120 ≤ levels b := by
  unfold candidateBand
  dsimp only
  rw [Option.ite_none_right_eq_some, Option.some_inj]
  exact ⟨fun ⟨h, e⟩ => ⟨e, e ▸ h⟩, fun ⟨e, h⟩ => ⟨e ▸ h, e⟩⟩

/-- Every band's level is floored at −240, where silence stands (R100). -/
theorem bandLevels_floor (window : List Int) (b : Band) : -240 ≤ vget (bandLevels window) b := by
  unfold bandLevels
  split
  · rw [vget_vgen]
  · dsimp only
    rw [vget_vgen]
    exact (levelOfRatio_spec _ _).1

theorem bandLevels_silence {window : List Int} (h : ∀ x ∈ window, x = 0) (b : Band) :
    vget (bandLevels window) b = -240 := by
  have hall : window.all (· == 0) = true := List.all_eq_true.mpr fun x hx => beq_iff_eq.mpr (h x hx)
  rw [bandLevels, if_pos hall, vget_vgen]

/-! ### The count after a window -/

/-- A candidate beside the run band lengthens the run (R101). -/
theorem Detector.afterWindow_beside {d : Detector} {b r : Band} (hr : d.runBand = some r) (hcount : 0 < d.count)
    (hmatch : bandsMatch b r) : d.afterWindow (some b) = { d with count := d.count + 1 } := by
  simp only [Detector.afterWindow, hr]
  exact if_pos ⟨hcount, hmatch⟩

/-- Any other candidate starts a run of its own band (R101). -/
theorem Detector.afterWindow_starts {d : Detector} {b : Band}
    (h : d.count = 0 ∨ ∀ r, d.runBand = some r → ¬ bandsMatch b r) :
    d.afterWindow (some b) = { d with count := 1, runBand := some b } := by
  unfold Detector.afterWindow
  cases hr : d.runBand with
  | none => rfl
  | some r =>
    refine if_neg fun ⟨hcount, hmatch⟩ => ?_
    rcases h with h | h
    · omega
    · exact h r hr hmatch

/-! ### The end of the window -/

theorem State.handedBand_eq_some {s : State} {src : Source} {b : Band} : s.handedBand src = some b ↔
    (vget s.detectors src).analysing = true ∧ s.windowCandidate src = some b ∧
      (vget s.sources src).persistence ≤ (s.updatedDetector src).count := by
  unfold State.handedBand
  rw [Option.ite_none_right_eq_some]
  tauto

/-- The end of the shared window, each source's detector and channel as if it alone were there (R99 to R101; log 33). -/
theorem State.endWindow_eq {s : State} (h : 1024 ≤ s.windowCount) : ∃ flags,
    s.endWindow = { s with
      windowCount := 0
      detectors := vgen s.endedDetector
      notches := vgen fun src => (s.endedChannel src).1
      sections := vgen fun src => (s.endedChannel src).2
      link := { s.link with flags := flags } } ∧
    RaisedIf (∃ src, s.DropsAtWindow src) s.link.flags flags := by
  obtain ⟨D, N, S, flags, e, hall, hflags⟩ := State.foldl_endWindowOf allSources nodup_allSources s
  simp only [mem_allSources, if_true, forall_and] at hall
  obtain ⟨hdetectors, hnotches, hsections⟩ := hall
  have hD : D = vgen s.endedDetector := vext fun src => by rw [vget_vgen, hdetectors]
  have hN : N = vgen fun src => (s.endedChannel src).1 := vext fun src => by rw [vget_vgen, hnotches]
  have hS : S = vgen fun src => (s.endedChannel src).2 := vext fun src => by rw [vget_vgen, hsections]
  refine ⟨flags, ?_, hflags.congr (by simp)⟩
  rw [State.endWindow, if_pos h, e, hD, hN, hS]

/-- The channel that RING_CANDIDATE leaves is the one its table and sections make (R104 to R106). -/
theorem exec_ringCandidate_channel {s : State} {src : Source} (h : s.detectorRuns src = true) (b : Band) :
    ∃ u, exec (.ringCandidate src b) s = .next u ∧
      vget u.notches src = (handledChannel b (vget s.notches src) (vget s.sections src)).1 ∧
      vget u.sections src = (handledChannel b (vget s.notches src) (vget s.sections src)).2 := by
  refine ⟨_, exec_ringCandidate h b, ?_⟩
  obtain ⟨flags, e, -⟩ :=
    (s.setDetector src { vget s.detectors src with count := 0, runBand := none }).handleCandidate_eq src b
  rw [e]
  exact ⟨vget_vset_same _ _ _, vget_vset_same _ _ _⟩

/-- Settles O37: the window's end source by source, the levels' candidate, and the count after it (R99, R100, R101). -/
theorem windowEnds : Obligations.WindowEnds := by
  unfold Obligations.WindowEnds
  refine ⟨fun s h => congrArg Host.Outcome.next (State.endWindow_still h), fun s hcount hruns => ?ended,
    fun window b => ⟨bandLevels_floor window b, fun h => bandLevels_silence h b⟩, fun levels margin => ?candidate,
    fun d => ⟨rfl, fun b => ⟨fun r => Detector.afterWindow_beside, Detector.afterWindow_starts⟩⟩⟩
  case candidate =>
    intro mean b
    rw [candidateBand_eq_some, highestBand_eq_iff, and_assoc]
    rfl
  case ended =>
    intro candidate updated handed dropped
    have hhanded (src : Source) (b : Band) : handed src b ↔ s.handedBand src = some b := State.handedBand_eq_some.symm
    have hdropped : dropped ↔ ∃ src, s.DropsAtWindow src :=
      exists_congr fun src => exists_congr fun b => and_congr (hhanded src b) Iff.rfl
    obtain ⟨flags, e, hflags⟩ := State.endWindow_eq hcount
    refine ⟨s.endWindow, rfl, ?_, ?_⟩
    · rw [e]
    · rw [e]
      refine ⟨(hflags.congr hdropped).raised, (hflags.congr hdropped).kept, fun src => ?_⟩
      simp only [vget_vgen, hhanded]
      refine ⟨fun hnone => ?_, fun b hb => ?_⟩
      · have hkept : s.handedBand src = none := Option.eq_none_iff_forall_ne_some.mpr hnone
        rw [State.endedDetector, State.endedChannel, hkept]
        exact ⟨rfl, rfl, rfl⟩
      · obtain ⟨u, hu, hnotches, hsections⟩ :=
          exec_ringCandidate_channel (hruns src (State.handedBand_eq_some.mp hb).1) b
        rw [State.endedDetector, State.endedChannel, hb]
        exact ⟨u, hu, rfl, hnotches.symm, hsections.symm⟩

end Sys2Proof.Machine
end

section
/-! ## SET_AREA -/

namespace Sys2Proof.Machine

/-! ### The mode and service bytes (R117, R168) -/

/-- JOINED is named by mode 0, whatever the service byte holds. -/
theorem asAreaMode_joined (v : Byte) : asAreaMode 0 v = some .joined := rfl

/-- SEPARATE takes a service that is not the common service. -/
theorem asAreaMode_separate {v : Byte} {sv : Service} (hv : v.toNat = sv.val) (hsv : sv ≠ 0) :
    asAreaMode 1 v = some (.separate sv) := by
  simp [asAreaMode, asId_of_eq sv hv, hsv]

theorem asAreaMode_of_le {m : Byte} (v : Byte) (h : 2 ≤ m.toNat) : asAreaMode m v = none := by
  unfold asAreaMode
  split
  · omega
  · omega
  · rfl

/-- SEPARATE with the common service or one out of range is refused. -/
theorem asAreaMode_badService {v : Byte} (h : v = 0 ∨ 8 ≤ v.toNat) : asAreaMode 1 v = none := by
  rcases h with rfl | h
  · rfl
  · simp [asAreaMode, asId_of_le h]

/-! ### The operation -/

section
variable {s : State} {a : AreaId} {new : AreaMode}

/-- The stored record repeated has no effect (R118). -/
theorem setAreaOp_repeated (h : vget s.areas a = new) : setAreaOp a new s = (.ok, s) := by
  simp [setAreaOp, h]

/-- A change is pool-checked and reconciles every ACTIVE placement (R119, R120). -/
theorem setAreaOp_changed (h : vget s.areas a ≠ new) : setAreaOp a new s =
    let written := { s with areas := vset s.areas a new }
    if s.freeCount < written.newRecords (fun _ => true) then (.poolFull, s)
    else (.ok, s.closeEvent (written.reconcileMany fun _ => true)) := by
  simp only [setAreaOp, h, if_false, afterPoolCheck_eq, id_eq]

end

/-! ### The request -/

section
variable {s : State} {b m v : Byte} (h : s.takesRequest = true)
include h

/-- SET_AREA of an area but the nave answers what its operation does (R117). -/
theorem exec_setArea {a : AreaId} {new : AreaMode} (ha : a ≠ 0) (hb : b.toNat = a.val)
    (hm : asAreaMode m v = some new) {code : ResultCode} {t : State} (ho : setAreaOp a new s = (code, t)) :
    exec (.setArea b m v) s = .next (t.respond code 0x15 []) := by
  show execSetArea b m v s = _
  exact onRequest_answers rfl h (by simp only [asId_of_eq a hb, hm, ha, if_false, ho, bare])

/-- An area out of range is refused (R117). -/
theorem exec_setArea_noArea (hb : 8 ≤ b.toNat) : exec (.setArea b m v) s = .next (s.respond .outOfRange 0x15 []) := by
  show execSetArea b m v s = _
  exact onRequest_answers rfl h (by simp only [asId_of_le hb, refuse])

/-- The nave is refused with whatever mode (R117). -/
theorem exec_setArea_nave : exec (.setArea 0 m v) s = .next (s.respond .outOfRange 0x15 []) := by
  have hnave : asId 8 0 = some (0 : AreaId) := asId_of_eq 0 rfl
  show execSetArea 0 m v s = _
  refine onRequest_answers rfl h ?_
  cases hm : asAreaMode m v <;> simp only [hnave, if_true, refuse]

/-- Bytes that name no mode are refused (R117). -/
theorem exec_setArea_noMode (hm : asAreaMode m v = none) :
    exec (.setArea b m v) s = .next (s.respond .outOfRange 0x15 []) := by
  show execSetArea b m v s = _
  refine onRequest_answers rfl h ?_
  cases hb : asId 8 b <;> simp only [hm, refuse]

end

/-- Settles O19: the refusals by what the bytes are read as, and each other clause is one branch of the operation (R117 to
R120). -/
theorem setAreaEffects : Obligations.SetAreaEffects := by
  unfold Obligations.SetAreaEffects
  refine fun b m v s h => ⟨?refused, fun a new ha hb hmode => ?taken⟩
  case refused =>
    rintro (hb | rfl | hm | ⟨rfl, hv⟩)
    · exact exec_setArea_noArea h hb
    · exact exec_setArea_nave h
    · exact exec_setArea_noMode h (asAreaMode_of_le v hm)
    · exact exec_setArea_noMode h (asAreaMode_badService hv)
  case taken =>
    have hread : asAreaMode m v = some new := by
      obtain ⟨rfl, rfl⟩ | ⟨sv, rfl, hsv, hv, rfl⟩ := hmode
      · exact asAreaMode_joined v
      · exact asAreaMode_separate hv hsv
    refine ⟨fun hsame => exec_setArea h ha hb hread (setAreaOp_repeated hsame),
      fun hdiff hfull => exec_setArea h ha hb hread ((setAreaOp_changed hdiff).trans (if_pos hfull)),
      fun hdiff hfits hok => ?_⟩
    obtain ⟨-, hused, -⟩ := hok
    exact ⟨_, exec_setArea h ha hb hread ((setAreaOp_changed hdiff).trans (if_neg (Nat.not_lt.mpr hfits))),
      Reconciled.respond (State.closeEvent_reconcileMany { s with areas := vset s.areas a new } s _ hused) _ _ _⟩

end Sys2Proof.Machine
end

section
/-! ## The reads that clear -/

namespace Sys2Proof.Machine

/-- The LIMITED marks of a source's feeds and their count, as LIST_LIMITED puts them out (R42). -/
theorem State.limitedBytes_eq (s : State) : s.limitedBytes =
    (allSources.flatMap fun src => zoneSetBytes (BitVec.ofFnLE fun z : Zone =>
        (s.feed (src, z)).any fun f : Feed => f.limited)) ++
      [byteOf (allFeeds.countP fun k => (s.feed k).any fun f : Feed => f.limited)] := by
  have hmark (k : FeedKey) : s.isLimitedFeed k = (s.feed k).any fun f : Feed => f.limited := by
    unfold State.isLimitedFeed
    cases s.feed k <;> rfl
  have hcount : s.limitedCount = allFeeds.countP s.isLimitedFeed := rfl
  simp only [State.limitedBytes, hcount, ← hmark, zoneSetOf]

/-- The marks of every line and the two flags that show them go in one event (R133). -/
theorem State.clearCueFlags_eq (s : State) : s.clearCueFlags = { s with
    cues := vgen fun l => { vget s.cues l with delta := false, refused := false }
    link := { s.link with flags := s.link.flags &&& 0b1001111 } } := by
  have hflags : s.link.flags &&& ~~~EventFlag.cue.bit &&& ~~~EventFlag.cueRefused.bit = s.link.flags &&& 0b1001111 :=
    BitVec.and_assoc ..
  rw [← hflags]
  rfl

/-- Settles O13: each read answers its payload of the part it found, and its rule then clears (R42, R133, R147, R159). -/
theorem clearingReads : Obligations.ClearingReads := by
  unfold Obligations.ClearingReads
  intro s h
  dsimp only [exec]
  refine ⟨onRequest_answers rfl h ?limited, onRequest_answers rfl h ?cues, onRequest_answers rfl h rfl⟩
  case limited =>
    rw [State.limitedBytes_eq]
    rfl
  case cues =>
    rw [State.clearCueFlags_eq]
    rfl

end Sys2Proof.Machine
end

section
/-! ## SET_CUE and the pin sample -/

namespace Sys2Proof.Machine

/-! ### The payload (R132, R168) -/

section
variable {p : CuePayload}

/-- An edge byte is read by its code. -/
theorem asEdge_of_eq {b : Byte} {e : Edge}
    (h : (b = 0 ∧ e = .none) ∨ (b = 1 ∧ e = .rising) ∨ (b = 2 ∧ e = .falling) ∨ (b = 3 ∧ e = .both)) :
    asEdge b = some e := by
  obtain ⟨rfl, rfl⟩ | ⟨rfl, rfl⟩ | ⟨rfl, rfl⟩ | ⟨rfl, rfl⟩ := h <;> rfl

theorem asCueAction_none (ha : p.action = 0) : asCueAction p = some .none := by
  simp [asCueAction, ha]

theorem asCueAction_place (ha : p.action = 1) {src : Source} {st : StationId} {sv : Service}
    (hsrc : p.source.toNat = src.val) (hst : p.station.toNat = st.val) (hsv : p.service.toNat = sv.val) :
    asCueAction p = some (.place src st sv (max (-40) (min 24 p.level.toInt))) := by
  simp [asCueAction, ha, asId_of_eq src hsrc, asId_of_eq st hst, asId_of_eq sv hsv, asLevel, clampInt]

theorem asCueAction_move (ha : p.action = 2) {src : Source} {st : StationId} (hsrc : p.source.toNat = src.val)
    (hst : p.station.toNat = st.val) : asCueAction p = some (.move src st) := by
  simp [asCueAction, ha, asId_of_eq src hsrc, asId_of_eq st hst]

theorem asCueAction_retire (ha : p.action = 3) {src : Source} (hsrc : p.source.toNat = src.val) :
    asCueAction p = some (.retire src) := by
  simp [asCueAction, ha, asId_of_eq src hsrc]

theorem asCueAction_gateMode (ha : p.action = 4) {src : Source} {m : GateMode} (hsrc : p.source.toNat = src.val)
    (hm : p.gateMode.toNat = m.code) : asCueAction p = some (.gateMode src m) := by
  simp [asCueAction, ha, asId_of_eq src hsrc, asGateMode_of_eq m hm]

theorem asCueAction_wake (ha : p.action = 5) : asCueAction p = some .wake := by
  simp [asCueAction, ha]

/-- An action that is read uses only parameters in their sets (R132). -/
theorem asCueAction_eq_some {a : CueAction} (h : asCueAction p = some a) : p.action.toNat < 6 ∧
    (1 ≤ p.action.toNat → p.action.toNat ≤ 4 → p.source.toNat < 16) ∧
    (1 ≤ p.action.toNat → p.action.toNat ≤ 2 → p.station.toNat < 32) ∧
    (p.action.toNat = 1 → p.service.toNat < 8) ∧ (p.action.toNat = 4 → p.gateMode.toNat < 3) := by
  have hid {n : Nat} {b : Byte} {i : Fin n} (hi : asId n b = some i) : b.toNat < n := by
    have := asId_eq_some.mp hi
    omega
  unfold asCueAction at h
  split at h
  · omega
  · split at h
    · next hsrc hst hsv =>
      have := hid hsrc
      have := hid hst
      have := hid hsv
      omega
    · cases h
  · split at h
    · next hsrc hst =>
      have := hid hsrc
      have := hid hst
      omega
    · cases h
  · obtain ⟨_, hsrc, -⟩ := Option.map_eq_some_iff.mp h
    have := hid hsrc
    omega
  · split at h
    · next hsrc hm =>
      have := hid hsrc
      have hmode : p.gateMode.toNat < 3 := by
        by_contra hle
        rw [asGateMode_of_le (by omega)] at hm
        cases hm
      omega
    · cases h
  · omega
  · cases h

end

/-! ### The request -/

section
variable {s : State} {p : CuePayload} (h : s.takesRequest = true)
include h

/-- SET_CUE writes the edge and the action of a line that is read (R132). -/
theorem exec_setCue {l : Line} {e : Edge} {a : CueAction} (hl : p.line.toNat = l.val) (he : asEdge p.edge = some e)
    (ha : asCueAction p = some a) : exec (.setCue p) s = .next ({ s with
      cues := vset s.cues l { vget s.cues l with edge := e, action := a } }.respond .ok 0x40 []) := by
  show execSetCue p s = _
  exact onRequest_answers rfl h (by simp only [asId_of_eq l hl, he, ha, accept, State.setCue])

/-- A line, an edge or an action that is not read refuses the request (R132, R168). -/
theorem exec_setCue_outOfRange (hp : asId 8 p.line = none ∨ asEdge p.edge = none ∨ asCueAction p = none) :
    exec (.setCue p) s = .next (s.respond .outOfRange 0x40 []) := by
  show execSetCue p s = _
  refine onRequest_answers rfl h ?_
  obtain hl | he | ha := hp
  · simp only [hl, refuse]
  · cases asId 8 p.line <;> simp only [he, refuse]
  · cases asId 8 p.line <;> cases asEdge p.edge <;> simp only [ha, refuse]

end

/-- Settles O41: SET_CUE by what its payload is read as, and the sample over the changes still waiting (R128, R132, R168;
log 2, log 19). -/
theorem cuesSetAndSampled : Obligations.CuesSetAndSampled := by
  unfold Obligations.CuesSetAndSampled
  refine ⟨fun p s h => ⟨fun hp => exec_setCue_outOfRange h ?refused, fun l e act hl he hact =>
    exec_setCue h hl (asEdge_of_eq he) ?read⟩, fun s pins => ⟨_, runCommands_debouncedChange s, fun hstill =>
    foldl_still (fun l => State.debouncedChange_still (hstill l)) _, rfl⟩⟩
  case refused =>
    by_cases hl : 8 ≤ p.line.toNat
    · exact .inl (asId_of_le hl)
    · by_cases he : 4 ≤ p.edge.toNat
      · exact .inr (.inl (asEdge_of_le he))
      · refine .inr (.inr (Option.eq_none_iff_forall_ne_some.mpr fun a ha => ?_))
        have := asCueAction_eq_some ha
        omega
  case read =>
    obtain ⟨ha, rfl⟩ | ⟨src, st, sv, ha, hsrc, hst, hsv, rfl⟩ | ⟨src, st, ha, hsrc, hst, rfl⟩ | ⟨src, ha, hsrc, rfl⟩ |
      ⟨src, m, ha, hsrc, hm, rfl⟩ | ⟨ha, rfl⟩ := hact
    · exact asCueAction_none ha
    · exact asCueAction_place ha hsrc hst hsv
    · exact asCueAction_move ha hsrc hst
    · exact asCueAction_retire ha hsrc
    · exact asCueAction_gateMode ha hsrc hm
    · exact asCueAction_wake ha

end Sys2Proof.Machine
end

section
/-! ## Cue actions and requests

A request and a cue action run one operation on parts that differ in the Cue Lines and in the Control Link alone. Of
these the operations use only the event flags: said once as a change of the lines and of the rest of the link, with which
every operation commutes. -/

namespace Sys2Proof.Machine

/-! ### The operations behind other lines and another link -/

/-- The part behind other Cue Lines and another Control Link, its event flags kept. -/
def State.behind (cues : Vector CueLine 8) (link : Link) (s : State) : State :=
  { s with cues := cues, link := { link with flags := s.link.flags } }

variable {cues : Vector CueLine 8} {link : Link} (s : State)

@[simp] theorem State.behind_timing : (s.behind cues link).timing = s.timing := rfl
@[simp] theorem State.behind_service : (s.behind cues link).service = s.service := rfl
@[simp] theorem State.feed_behind (k : FeedKey) : (s.behind cues link).feed k = s.feed k := rfl
@[simp] theorem State.placement_behind (src : Source) : (s.behind cues link).placement src = s.placement src := rfl
@[simp] theorem State.desired_behind (p : Placement) (z : Zone) :
    (s.behind cues link).desired p z = s.desired p z := rfl
@[simp] theorem State.drivenGate_behind (src : Source) : (s.behind cues link).drivenGate src = s.drivenGate src := rfl

@[simp] theorem State.setFeed_behind (k : FeedKey) (f : Option Feed) :
    (s.behind cues link).setFeed k f = (s.setFeed k f).behind cues link := rfl
@[simp] theorem State.setPlacement_behind (src : Source) (p : Option Placement) :
    (s.behind cues link).setPlacement src p = (s.setPlacement src p).behind cues link := rfl
@[simp] theorem State.setService_behind (st : ServiceState) (r : Ramp) :
    (s.behind cues link).setService st r = (s.setService st r).behind cues link := rfl
@[simp] theorem State.storeGateMode_behind (src : Source) (m : GateMode) :
    (s.behind cues link).storeGateMode src m = (s.storeGateMode src m).behind cues link := rfl

/-- A branch on one condition commutes with a function where both its arms do. -/
theorem ite_eq_map {α β : Type} {f : α → β} {p : Prop} [Decidable p] {x y : α} {x' y' : β} (hx : x' = f x)
    (hy : y' = f y) : (if p then x' else y') = f (if p then x else y) := by
  rw [apply_ite f, hx, hy]

theorem foldl_behind {α : Type} {op : State → α → State}
    (h : ∀ t x, op (State.behind cues link t) x = (op t x).behind cues link) (l : List α) :
    l.foldl op (s.behind cues link) = (l.foldl op s).behind cues link :=
  List.foldl_hom (State.behind cues link) fun t x => h t x

@[simp] theorem State.offer_behind (k : FeedKey) : (s.behind cues link).offer k = (s.offer k).behind cues link := by
  rw [State.offer_eq, State.offer_eq]
  rfl

@[simp] theorem State.setGate_behind (src : Source) (g : Gate) :
    (s.behind cues link).setGate src g = (s.setGate src g).behind cues link := by
  rw [State.setGate_eq, State.setGate_eq]
  rfl

@[simp] theorem State.takeUpDrive_behind (src : Source) :
    (s.behind cues link).takeUpDrive src = (s.takeUpDrive src).behind cues link := by
  simp [State.takeUpDrive]

@[simp] theorem State.allocate_behind (k : FeedKey) :
    (s.behind cues link).allocate k = (s.allocate k).behind cues link := by
  simp [State.allocate]

@[simp] theorem State.drop_behind (k : FeedKey) : (s.behind cues link).drop k = (s.drop k).behind cues link := by
  simp only [State.drop, State.feed_behind]
  split
  · rfl
  · split
    · rfl
    · rfl
    · exact ite_eq_map rfl rfl

@[simp] theorem State.removeIfEmpty_behind (src : Source) :
    (s.behind cues link).removeIfEmpty src = (s.removeIfEmpty src).behind cues link := by
  simp only [State.removeIfEmpty, State.placement_behind]
  split
  · exact ite_eq_map rfl rfl
  · rfl

/-- The end of an event of both parts raises SETTLED in both or in neither (R78). -/
@[simp] theorem State.closeEvent_behind (before : State) :
    (before.behind cues link).closeEvent (s.behind cues link) = (before.closeEvent s).behind cues link :=
  ite_eq_map rfl rfl

@[simp] theorem State.reconcileZone_behind (src : Source) (p : Placement) (z : Zone) :
    (s.behind cues link).reconcileZone src p z = (s.reconcileZone src p z).behind cues link := by
  simp only [State.reconcileZone, State.desired_behind, State.feed_behind, State.behind_timing, State.setFeed_behind]
  split
  · exact s.allocate_behind _
  · exact ite_eq_map (State.offer_behind _ _) (s.offer_behind _)
  · exact s.drop_behind _

@[simp] theorem State.reconcile_behind (src : Source) :
    (s.behind cues link).reconcile src = (s.reconcile src).behind cues link := by
  simp only [State.reconcile, State.placement_behind]
  split
  · exact ite_eq_map (foldl_behind s (fun t z => t.reconcileZone_behind src _ z) _) rfl
  · rfl

@[simp] theorem State.reconcileMany_behind (chosen : Source → Bool) :
    (s.behind cues link).reconcileMany chosen = (s.reconcileMany chosen).behind cues link :=
  foldl_behind s State.reconcile_behind _

/-- A pool check takes both parts the same way (R29). -/
theorem afterPoolCheck_behind (written : State) (chosen : Source → Bool) {finish : State → State}
    (h : ∀ t, finish (State.behind cues link t) = (finish t).behind cues link) :
    afterPoolCheck (s.behind cues link) ((s.behind cues link).poolChecked (written.behind cues link) chosen) finish =
      Prod.map id (State.behind cues link) (afterPoolCheck s (s.poolChecked written chosen) finish) := by
  rw [afterPoolCheck_eq, afterPoolCheck_eq, State.reconcileMany_behind, h, State.closeEvent_behind]
  exact ite_eq_map rfl rfl

theorem placeOp_behind (src : Source) (st : StationId) (sv : Service) (level : Int) :
    placeOp src st sv level (s.behind cues link) =
      Prod.map id (State.behind cues link) (placeOp src st sv level s) := by
  simp only [placeOp, State.setPlacement_behind]
  exact ite_eq_map rfl (ite_eq_map rfl (afterPoolCheck_behind s _ _ fun t => t.takeUpDrive_behind src))

theorem moveOp_behind (src : Source) (st : StationId) :
    moveOp src st (s.behind cues link) = Prod.map id (State.behind cues link) (moveOp src st s) := by
  simp only [moveOp, State.placement_behind, State.setPlacement_behind]
  split
  · rfl
  · exact ite_eq_map rfl (ite_eq_map rfl (ite_eq_map rfl (afterPoolCheck_behind s _ _ fun _ => rfl)))

theorem retireOp_behind (src : Source) :
    retireOp src (s.behind cues link) = Prod.map id (State.behind cues link) (retireOp src s) := by
  have hdrops (t : State) : allZones.foldl (fun t z => t.drop (src, z)) (t.behind cues link) =
      (allZones.foldl (fun t z => t.drop (src, z)) t).behind cues link :=
    foldl_behind t (fun t z => t.drop_behind (src, z)) _
  simp only [retireOp, State.placement_behind, State.setPlacement_behind, hdrops, State.removeIfEmpty_behind,
    State.takeUpDrive_behind, State.closeEvent_behind]
  split
  · rfl
  · exact ite_eq_map rfl rfl

theorem setGateModeOp_behind (src : Source) (m : GateMode) :
    setGateModeOp src m (s.behind cues link) = Prod.map id (State.behind cues link) (setGateModeOp src m s) := by
  simp only [setGateModeOp, State.storeGateMode_behind, State.takeUpDrive_behind, State.closeEvent_behind]
  exact ite_eq_map rfl (ite_eq_map rfl rfl)

theorem State.wake_behind : (s.behind cues link).wake = s.wake.behind cues link := by
  simp only [State.wake, State.behind_service, State.behind_timing, State.setService_behind,
    foldl_behind _ State.takeUpDrive_behind, State.closeEvent_behind]
  split <;> rfl

/-- A stored action reads and writes no Cue Line, and nothing of the link but the event flags (R130). -/
theorem CueAction.perform_behind (a : CueAction) :
    a.perform (s.behind cues link) = Prod.map id (State.behind cues link) (a.perform s) := by
  cases a with
  | none => rfl
  | place src st sv level => exact placeOp_behind s src st sv level
  | move src st => exact moveOp_behind s src st
  | retire src => exact retireOp_behind s src
  | gateMode src m => exact setGateModeOp_behind s src m
  | wake => exact congrArg (Prod.mk ResultCode.ok) s.wake_behind

end Sys2Proof.Machine
end

section
/-! ## The debounced change -/

namespace Sys2Proof.Machine

/-! ### The request of the same name -/

/-- The request that a stored action carries out (R130). -/
def CueAction.request : CueAction → Instr
  | .none => .nop
  | .place src st sv level =>
    .place (BitVec.ofNat 8 src.val) (BitVec.ofNat 8 st.val) (BitVec.ofNat 8 sv.val) (BitVec.ofInt 16 level)
  | .move src st => .move (BitVec.ofNat 8 src.val) (BitVec.ofNat 8 st.val)
  | .retire src => .retire (BitVec.ofNat 8 src.val)
  | .gateMode src m => .setGateMode (BitVec.ofNat 8 src.val) (BitVec.ofNat 8 m.code)
  | .wake => .wake

/-- A small number's byte holds it. -/
theorem toNat_idByte {n : Nat} (i : Fin n) (hn : n ≤ 256) : (BitVec.ofNat 8 i.val).toNat = i.val := by
  have := i.isLt
  rw [BitVec.toNat_ofNat]
  exact Nat.mod_eq_of_lt (by omega)

theorem toNat_modeByte (m : GateMode) : (BitVec.ofNat 8 m.code).toNat = m.code := by
  cases m <;> rfl

/-- A level in its range is read as itself (R30). -/
theorem clampedLevel_ofInt {level : Int} (hlo : -40 ≤ level) (hhi : level ≤ 24) :
    max (-40) (min 24 (BitVec.ofInt 16 level).toInt) = level := by
  have hread : (BitVec.ofInt 16 level).toInt = level := by
    rw [BitVec.toInt_ofInt]
    exact Int.bmod_eq_of_le (by omega) (by omega)
  rw [hread]
  omega

/-- The request that names a stored action answers what the action does, with a response formed (R30, R33, R35, R93, R130,
R153, R165). -/
theorem exec_request {s : State} (h : s.takesRequest = true) {a : CueAction} (ha : a.inRange) :
    ∃ echo, exec a.request s = .next ((a.perform s).2.respond (a.perform s).1 echo []) := by
  cases a with
  | none => exact ⟨_, (onRequest_answers rfl h rfl : execNop s = _)⟩
  | place src st sv level =>
    obtain ⟨hlo, hhi⟩ := ha
    refine ⟨_, exec_place h (toNat_idByte src (by decide)) (toNat_idByte st (by decide)) (toNat_idByte sv (by decide)) ?_⟩
    rw [clampedLevel_ofInt hlo hhi]
    rfl
  | move src st => exact ⟨_, exec_move h (toNat_idByte src (by decide)) (toNat_idByte st (by decide)) rfl⟩
  | retire src => exact ⟨_, exec_retire h (toNat_idByte src (by decide)) rfl⟩
  | gateMode src m => exact ⟨_, exec_setGateMode h (toNat_idByte src (by decide)) (toNat_modeByte m) rfl⟩
  | wake => exact ⟨_, (onRequest_answers rfl h rfl : execWake s = _)⟩

/-! ### The change -/

theorem Edge.hasMatch_iff {e : Edge} {level : Bool} : e.hasMatch level = true ↔
    e = .both ∨ (e = .rising ∧ level = true) ∨ (e = .falling ∧ level = false) := by
  cases e <;> simp [Edge.hasMatch]

theorem Edge.not_hasMatch_iff {e : Edge} {level : Bool} : e.hasMatch level = false ↔
    e = .none ∨ (e = .rising ∧ level = false) ∨ (e = .falling ∧ level = true) := by
  cases e <;> simp [Edge.hasMatch]

section
variable {s : State} {l : Line}

/-- In the quiet phase of a warm restart no line changes (R167; log 25). -/
theorem State.debouncedChange_restarting (h : s.service.restart ≠ none) : s.debouncedChange l = s := by
  simp [State.debouncedChange, Option.isSome_iff_ne_none.mpr h]

/-- A raw level that counts is settled, and a match with the edge carries out the action (R128, R129). -/
theorem State.debouncedChange_counts (hraw : (vget s.cues l).raw ≠ (vget s.cues l).debounced)
    (hheld : s.timing.debounce ≤ (vget s.cues l).held) (hrun : s.service.restart = none) : s.debouncedChange l =
      if (vget s.cues l).edge.hasMatch (vget s.cues l).raw then
        ((vget s.cues l).action.perform (s.settleLine l)).2.recordAction l
          ((vget s.cues l).action.perform (s.settleLine l)).1
      else s.settleLine l := by
  simp [State.debouncedChange, CueLine.counts, hraw, hheld, hrun]

/-- What the record of a result leaves behind the lines of a settled one (R129, R131). -/
theorem State.recordAction_behind {cues : Vector CueLine 8} {link : Link} (c : CueLine) (code : ResultCode) :
    (s.behind (vset cues l c) link).recordAction l code = { s with
      cues := vset cues l { c with delta := true, lastResult := code, refused := c.refused || decide (code ≠ .ok) }
      link := { link with
        flags := s.link.flags ||| EventFlag.cue.bit ||| (if code = .ok then 0 else EventFlag.cueRefused.bit) } } := by
  unfold State.recordAction State.behind
  dsimp only
  rw [vget_vset_same]
  have hrefused : (code != .ok) = decide (code ≠ .ok) := Bool.eq_iff_iff.mpr (by simp)
  rw [hrefused]
  by_cases hok : code = .ok
  · simp [hok, State.raise, State.setCue, vset_vset]
  · simp [hok, State.raise, State.setCue, vset_vset]

end

/-- Settles O42: the action and the request of its name are one operation, run behind the settled line here and behind a
link with no transaction there (R128 to R131, R37, R167; log 25). -/
theorem cueActsAsTheRequest : Obligations.CueActsAsTheRequest := by
  unfold Obligations.CueActsAsTheRequest
  intro s l c
  have hexec : exec (.debouncedChange l) s = .next (s.debouncedChange l) := rfl
  rw [hexec]
  refine ⟨fun hstill => congrArg _ ?still, fun hraw hheld hrun => ?_⟩
  case still =>
    obtain hraw | hheld | hrestart := hstill
    · exact State.debouncedChange_still (.inl hraw)
    · exact State.debouncedChange_still (.inr hheld)
    · exact State.debouncedChange_restarting hrestart
  rw [State.debouncedChange_counts hraw hheld hrun]
  refine ⟨fun hedge => ?unmatched, fun hedge request hrequest => ?matched⟩
  case unmatched =>
    rw [Edge.not_hasMatch_iff.mpr hedge]
    rfl
  case matched =>
    obtain ⟨ha, rfl⟩ : c.action.inRange ∧ request = c.action.request := by
      cases haction : c.action with
      | place src st sv level =>
        rw [haction] at hrequest
        obtain ⟨hlo, hhi, rfl⟩ := hrequest
        exact ⟨⟨hlo, hhi⟩, rfl⟩
      | none | move | retire | gateMode | wake =>
        rw [haction] at hrequest
        exact ⟨trivial, hrequest⟩
    have hidle : (s.behind s.cues { s.link with transaction := none }).takesRequest = true := by
      simp [State.takesRequest, State.behind, hrun]
    obtain ⟨echo, hanswer⟩ := exec_request hidle ha
    have hsettled : s.settleLine l = s.behind (vset s.cues l { c with debounced := c.raw }) s.link := rfl
    rw [if_pos (Edge.hasMatch_iff.mpr hedge), hsettled, CueAction.perform_behind]
    refine ⟨_, _, hanswer, rfl, ?_⟩
    rw [CueAction.perform_behind]
    exact State.recordAction_behind _ _

end Sys2Proof.Machine
end

section
/-! ## The switches of the Clock Unit: SET_CLOCK, the change and the completion -/

namespace Sys2Proof.Machine

/-! ### Selections carried out (R140) -/

section
variable {c : ClockUnit}

/-- A selection that the clock state has already starts nothing. -/
theorem ClockUnit.select_of_agree {sel : ClockSelection} (h : sel = .internal ↔ c.state = .internal) :
    c.select sel = c := by
  unfold ClockUnit.select
  cases sel with
  | internal => rw [h.mp rfl]
  | external =>
    cases hstate : c.state with
    | internal => cases h.mpr hstate
    | lockedExternal | awaitingExternal => rfl

theorem ClockUnit.select_external (h : c.state = .internal) :
    c.select .external = { c with selection := .external, flight := some (.down .awaitingExternal) } := by
  unfold ClockUnit.select
  rw [h]

theorem ClockUnit.select_internal (h : c.state ≠ .internal) :
    c.select .internal = { c with selection := .internal, flight := some (.down .internal) } := by
  unfold ClockUnit.select
  cases hstate : c.state with
  | internal => exact absurd hstate h
  | lockedExternal | awaitingExternal => rfl

/-- A completed switch starts the next where the pending selection asks for another clock state, by R140's table. -/
theorem ClockUnit.complete_eq (c : ClockUnit) : c.complete =
    if c.pendingSelection = some .external ∧ c.state = .internal
    then { c with selection := .external, flight := some (.down .awaitingExternal), pendingSelection := none }
    else if c.pendingSelection = some .internal ∧ c.state ≠ .internal
    then { c with selection := .internal, flight := some (.down .internal), pendingSelection := none }
    else { c with flight := none, pendingSelection := none } := by
  have hidle : ({ c with flight := none, pendingSelection := none } : ClockUnit).state = c.state := rfl
  unfold ClockUnit.complete
  cases hpending : c.pendingSelection with
  | none => simp
  | some sel =>
    cases sel with
    | external =>
      by_cases hstate : c.state = .internal
      · rw [if_pos ⟨rfl, hstate⟩]
        exact ClockUnit.select_external (hidle.trans hstate)
      · rw [if_neg fun h => hstate h.2, if_neg fun h => nomatch h.1]
        exact ClockUnit.select_of_agree (iff_of_false nofun hstate)
    | internal =>
      rw [if_neg fun h => nomatch h.1]
      by_cases hstate : c.state = .internal
      · rw [if_neg fun h => h.2 hstate]
        exact ClockUnit.select_of_agree (iff_of_true rfl hstate)
      · rw [if_pos ⟨rfl, hstate⟩]
        exact ClockUnit.select_internal hstate

/-- In either external state only a pending INTERNAL starts a switch when the one in flight completes. -/
theorem ClockUnit.complete_external (h : c.state ≠ .internal) : c.complete =
    if c.pendingSelection = some .internal
    then { c with selection := .internal, flight := some (.down .internal), pendingSelection := none }
    else { c with flight := none, pendingSelection := none } := by
  simp [ClockUnit.complete_eq, h]

theorem ClockUnit.request_of_flight {sel : ClockSelection} (h : c.flight ≠ none) :
    c.request sel = { c with pendingSelection := some sel } := if_pos (Option.isSome_iff_ne_none.mpr h)

theorem ClockUnit.request_of_idle {sel : ClockSelection} (h : c.flight = none) : c.request sel = c.select sel := by
  simp [ClockUnit.request, h]

end

/-! ### The change of a switch (R139) -/

/-- A clock state entered: the counts of arrivals and missed frames start from 0, and no arrival has started a frame
(R138). -/
def ClockUnit.entered (c : ClockUnit) (st : ClockState) : ClockUnit :=
  { c with state := st, presence := 0, missed := 0, frameStarted := false }

theorem ClockUnit.complete_entered_awaiting (c : ClockUnit) (gain : Rat) :
    ({ c.entered .awaitingExternal with gain := gain } : ClockUnit).complete =
      if c.pendingSelection = some .internal
      then { c.entered .awaitingExternal with
        gain := gain, selection := .internal, flight := some (.down .internal), pendingSelection := none }
      else { c.entered .awaitingExternal with gain := gain, flight := none, pendingSelection := none } :=
  ClockUnit.complete_external (by decide : ClockState.awaitingExternal ≠ .internal)

section
variable {s : State}

/-- A change into AWAITING_EXTERNAL completes its switch. -/
theorem State.changeClock_awaiting (gain : Rat) : s.changeClock .awaitingExternal gain =
    (s.setClock { s.clock.entered .awaitingExternal with gain := gain }.complete).raise .clock := rfl

/-- A change into INTERNAL or LOCKED_EXTERNAL starts the up phase. -/
theorem State.changeClock_up {target : ClockState} (h : target ≠ .awaitingExternal) (gain : Rat) :
    s.changeClock target gain =
      (s.setClock { s.clock.entered target with gain := gain, flight := some .up }).raise .clock := if_neg h

theorem State.switchChange_due {target : ClockState} (hflight : s.clock.flight = some (.down target))
    (hlock : target ≠ .lockedExternal) (hgain : s.clock.gain = 0) : s.switchChange = s.changeClock target 0 := by
  simp [State.switchChange, hflight, hlock, hgain]

theorem State.switchComplete_due (hflight : s.clock.flight = some .up) (hgain : s.clock.gain = 1) :
    s.switchComplete = s.setClock s.clock.complete := if_pos ⟨hflight, hgain⟩

theorem exec_setClock {b : Byte} {sel : ClockSelection} (h : s.takesRequest = true) (hb : b.toNat = sel.code) :
    exec (.setClock b) s = .next ((s.setClock (s.clock.request sel)).respond .ok 0x08 []) := by
  show execSetClock b s = _
  refine onRequest_answers rfl h ?_
  rw [asSelection_of_eq sel hb]
  rfl

theorem exec_setClock_outOfRange {b : Byte} (h : s.takesRequest = true) (hb : 2 ≤ b.toNat) :
    exec (.setClock b) s = .next (s.respond .outOfRange 0x08 []) := by
  show execSetClock b s = _
  refine onRequest_answers rfl h ?_
  rw [asSelection_of_le hb]
  rfl

end

/-- Settles O43: SET_CLOCK, the change and the completion of a switch are the selections carried out by R140 on the
clock state of the moment (R137, R139, R143; log 2). -/
theorem clockSwitches : Obligations.ClockSwitches := by
  unfold Obligations.ClockSwitches
  intro s c
  refine ⟨fun hr b => ⟨exec_setClock_outOfRange hr, fun sel hb => ?requests⟩, ?pins, fun hgain target hflight => 
    ?falling, fun hgain => ?rising, fun hflight hgain => ?toInternal, fun hflight hgain => ?toAwaiting,
    fun hflight hgain => ?completes⟩
  case requests =>
    rw [exec_setClock hr hb]
    refine ⟨fun hflight => ?_, fun hflight hsel hstate => ?_, fun hflight hsel hstate => ?_, fun hflight hagree => ?_⟩
    · rw [ClockUnit.request_of_flight hflight]
      rfl
    · subst hsel
      rw [ClockUnit.request_of_idle hflight, ClockUnit.select_external hstate]
      rfl
    · subst hsel
      rw [ClockUnit.request_of_idle hflight, ClockUnit.select_internal hstate]
      rfl
    · rw [ClockUnit.request_of_idle hflight, ClockUnit.select_of_agree hagree]
      rfl
  case pins => simp [State.drivesClockPins, c]
  case falling =>
    exact congrArg Host.Outcome.next (State.switchChange_still fun _ _ => .inr hgain)
  case rising => exact congrArg Host.Outcome.next (State.switchComplete_still fun _ => hgain)
  case toInternal =>
    have hchange := State.switchChange_due hflight (by decide) hgain
    exact congrArg Host.Outcome.next (hchange.trans (State.changeClock_up (by decide) 0))
  case toAwaiting =>
    have hchange := State.switchChange_due hflight (by decide) hgain
    rw [State.changeClock_awaiting, ClockUnit.complete_entered_awaiting] at hchange
    exact congrArg Host.Outcome.next hchange
  case completes =>
    refine congrArg Host.Outcome.next ((State.switchComplete_due hflight hgain).trans ?_)
    rw [← hgain]
    rw [ClockUnit.complete_eq]
    rfl

end Sys2Proof.Machine
end

section
/-! ## Arrivals, missed frames, the lock and the loss of the clock -/

namespace Sys2Proof.Machine

section
variable {s : State}

/-! ### The lock and its abandoning (R141) -/

theorem State.startLock_awaiting (hstate : s.clock.state = .awaitingExternal) (hsel : s.clock.selection = .external)
    (hflight : s.clock.flight = none) : s.startLock =
      s.setClock { s.clock with presence := presenceFull, flight := some (.down .lockedExternal) } :=
  if_pos ⟨hstate, hsel, hflight⟩

/-- The lock change starts the up phase at the gain the part has, and its arrival starts a frame. -/
theorem State.lockChange_locking (hflight : s.clock.flight = some (.down .lockedExternal)) : s.lockChange =
    (s.setClock { s.clock.entered .lockedExternal with frameStarted := true, flight := some .up }).raise .clock := by
  unfold State.lockChange
  rw [hflight]
  rfl

theorem State.lockChange_still (hflight : s.clock.flight ≠ some (.down .lockedExternal)) : s.lockChange = s := by
  unfold State.lockChange
  split
  · next e => exact absurd e hflight
  · rfl

/-- With no lock under way a bad arrival or a missed frame puts the presence count back alone. -/
theorem ClockUnit.disturb_waiting {c : ClockUnit} (hflight : c.flight ≠ some (.down .lockedExternal)) :
    c.disturb = { c with presence := 0 } := if_neg hflight

/-- A lock that is abandoned completes its switch without a change. -/
theorem ClockUnit.disturb_locking {c : ClockUnit} (hflight : c.flight = some (.down .lockedExternal)) :
    c.disturb = ({ c with presence := 0 } : ClockUnit).complete := if_pos hflight

/-! ### Arrivals and missed frames (R138) -/

theorem goodInterval_iff {x : Rat} : goodInterval x = true ↔ 99 / 100 ≤ x ∧ x ≤ 101 / 100 := by
  simp [goodInterval]

theorem State.arrival_internal (h : s.clock.state = .internal) (x : Rat) : s.arrival x = s := by
  simp [State.arrival, h]

theorem State.missFrame_internal (h : s.clock.state = .internal) : s.missFrame = s := by
  simp [State.missFrame, h]

section
variable (hstate : s.clock.state = .awaitingExternal) (hsel : s.clock.selection = .external)
include hstate hsel

theorem State.missFrame_awaiting : s.missFrame = s.setClock s.clock.disturb := by
  simp [State.missFrame, hstate, hsel]

variable {x : Rat}

theorem State.arrival_bad (hbad : goodInterval x = false) : s.arrival x = s.setClock s.clock.disturb := by
  simp [State.arrival, hstate, hsel, hbad]

theorem State.arrival_locking (hgood : goodInterval x = true)
    (hflight : s.clock.flight = some (.down .lockedExternal)) : s.arrival x = s.lockChange := by
  simp [State.arrival, hstate, hsel, hgood, hflight]

/-- A good arrival counts while the presence count does not reach its full value. -/
theorem State.arrival_counted (hgood : goodInterval x = true) (hflight : s.clock.flight = none)
    (hcount : s.clock.presence + 1 < presenceFull) :
    s.arrival x = s.setClock { s.clock with presence := s.clock.presence + 1 } := by
  have hmin : min presenceFull (s.clock.presence + 1) = s.clock.presence + 1 := min_eq_right hcount.le
  simp [State.arrival, hstate, hsel, hgood, hflight, hmin, hcount.ne]

/-- The good arrival that fills the presence count starts the lock. -/
theorem State.arrival_full (hgood : goodInterval x = true) (hflight : s.clock.flight = none)
    (hcount : s.clock.presence + 1 = presenceFull) : s.arrival x = s.startLock := by
  simp [State.arrival, State.startLock, State.setClock, hstate, hsel, hgood, hflight, hcount]

end

section
variable (hstate : s.clock.state = .lockedExternal)
include hstate

theorem State.arrival_short {x : Rat} (h : x < 99 / 100) : s.arrival x = s := by
  simp [State.arrival, hstate, h]

theorem State.arrival_locked {x : Rat} (h : 99 / 100 ≤ x) :
    s.arrival x = s.setClock { s.clock with missed := 0, frameStarted := true } := by
  simp [State.arrival, hstate, not_lt.mpr h]

/-! ### The loss of the clock (R142) -/

theorem State.loseClock_switching (hflight : s.clock.flight = some (.down .internal)) :
    s.loseClock = s.changeClock .internal 0 := by
  simp [State.loseClock, hstate, hflight]

theorem State.loseClock_holdover (hflight : s.clock.flight ≠ some (.down .internal)) :
    s.loseClock = s.changeClock .awaitingExternal 0 := by
  simp only [State.loseClock, hstate, hflight, if_true, if_false]
  rfl

theorem State.missFrame_counted (h : s.clock.missed < 3) :
    s.missFrame = s.setClock { s.clock with missed := s.clock.missed + 1 } := by
  have hfew : ¬ 4 ≤ s.clock.missed + 1 := by omega
  simp [State.missFrame, hstate, hfew]

/-- The fourth missed frame in a row loses the clock; the loss ends the run. -/
theorem State.missFrame_fourth (h : s.clock.missed = 3) : s.missFrame = s.loseClock := by
  have hlost : (s.setClock { s.clock with missed := 4 }).loseClock = s.loseClock := by
    by_cases hflight : s.clock.flight = some (.down .internal)
    · rw [State.loseClock_switching hstate hflight]
      exact State.loseClock_switching hstate hflight
    · rw [State.loseClock_holdover hstate hflight]
      exact State.loseClock_holdover hstate hflight
  simpa [State.missFrame, hstate, h] using hlost

end
end

/-- Settles O44: each arrival, missed frame, lock change and loss is one change of the Clock Unit by R138, R141 and R142
(log 3, log 13, log 14). -/
theorem lockAndLoss : Obligations.LockAndLoss := by
  unfold Obligations.LockAndLoss
  intro s c raised lock locked idle abandoned good
  have hbad {x : Rat} (h : ¬ good x) : goodInterval x = false :=
    Bool.eq_false_iff.mpr fun e => h (goodInterval_iff.mp e)
  have hnext {u v : State} (h : u = v) : (.next u : Answer) = .next v := congrArg Host.Outcome.next h
  refine ⟨fun hstate => ⟨fun x => hnext (State.arrival_internal hstate x), hnext (State.missFrame_internal hstate)⟩,
    fun hstate hsel hflight => ?waiting, fun hstate hsel hflight => ?locking, fun hstate => ?locked⟩
  case waiting =>
    have hfilled : s.startLock = { s with clock := lock } := State.startLock_awaiting hstate hsel hflight
    have hdisturbed : c.disturb = { c with presence := 0 } := ClockUnit.disturb_waiting (by rw [hflight]; nofun)
    have hcleared : s.setClock c.disturb = { s with clock := { c with presence := 0 } } := by rw [hdisturbed]; rfl
    refine ⟨hnext hfilled, fun x hgood hcount => hnext ?_, fun x hgood hcount => hnext ?_,
      fun x hx => hnext ((State.arrival_bad hstate hsel (hbad hx)).trans hcleared),
      hnext ((State.missFrame_awaiting hstate hsel).trans hcleared)⟩
    · exact State.arrival_counted hstate hsel (goodInterval_iff.mpr hgood) hflight (Nat.succ_lt_succ hcount)
    · have hfull := State.arrival_full hstate hsel (goodInterval_iff.mpr hgood) hflight (congrArg Nat.succ hcount)
      exact hfull.trans hfilled
  case locking =>
    have hlocked : s.lockChange = { s with clock := locked, link := raised } := State.lockChange_locking hflight
    have hexternal : c.state ≠ .internal := by rw [hstate]; decide
    have hdisturbed : c.disturb = abandoned :=
      (ClockUnit.disturb_locking hflight).trans (ClockUnit.complete_external hexternal)
    have hcompleted : s.setClock c.disturb = { s with clock := abandoned } := by rw [hdisturbed]; rfl
    exact ⟨hnext hlocked,
      fun x hgood => hnext ((State.arrival_locking hstate hsel (goodInterval_iff.mpr hgood) hflight).trans hlocked),
      fun x hx => hnext ((State.arrival_bad hstate hsel (hbad hx)).trans hcompleted),
      hnext ((State.missFrame_awaiting hstate hsel).trans hcompleted)⟩
  case locked =>
    refine ⟨fun x hx => hnext (State.arrival_locked hstate hx), fun x hx => hnext (State.arrival_short hstate hx),
      fun hfew => hnext (State.missFrame_counted hstate hfew),
      fun hthree => hnext (State.missFrame_fourth hstate hthree), fun hflight => hnext ?_, fun hflight => hnext ?_⟩
    · have hlost := State.loseClock_holdover hstate hflight
      rw [State.changeClock_awaiting, ClockUnit.complete_entered_awaiting] at hlost
      exact hlost
    · exact (State.loseClock_switching hstate hflight).trans (State.changeClock_up (by decide) 0)

end Sys2Proof.Machine
end

section
/-! ## The Clock Unit stays in its course

The condition of R137 to R142 with a clause for each phase of a switch, kept by every operation of the Clock Unit. -/

namespace Sys2Proof.Machine

/-- The Clock Unit in its course: its ranges, what the clock state says of them, and what the switch in flight says of
the state and the selection (R137 to R142). -/
structure ClockUnit.Course (c : ClockUnit) : Prop where
  gain : 0 ≤ c.gain ∧ c.gain ≤ 1
  presence : c.presence ≤ 24000
  missed : c.missed ≤ 3
  counting : c.state ≠ .awaitingExternal → c.presence = 0
  missing : c.state ≠ .lockedExternal → c.missed = 0
  silent : c.state = .awaitingExternal → c.gain = 0
  idle : c.flight = none → c.pendingSelection = none ∧ (c.state ≠ .awaitingExternal → c.gain = 1) ∧
    (c.selection = .internal ↔ c.state = .internal)
  rising : c.flight = some .up → c.state ≠ .awaitingExternal ∧ (c.selection = .internal ↔ c.state = .internal)
  toInternal : c.flight = some (.down .internal) → c.state ≠ .internal ∧ c.selection = .internal
  toLocked : c.flight = some (.down .lockedExternal) → c.state = .awaitingExternal ∧ c.selection = .external
  toAwaiting : c.flight = some (.down .awaitingExternal) → c.state = .internal ∧ c.selection = .external

theorem ClockUnit.inCourse_iff (c : ClockUnit) : c.inCourse ↔ c.Course := by
  unfold ClockUnit.inCourse
  constructor
  · rintro ⟨gain, presence, missed, counting, missing, silent, hflight⟩
    refine ⟨gain, presence, missed, counting, missing, silent, ?_, ?_, ?_, ?_, ?_⟩
    all_goals
      intro e
      rw [e] at hflight
      exact hflight
  · rintro ⟨gain, presence, missed, counting, missing, silent, idle, rising, toInternal, toLocked, toAwaiting⟩
    refine ⟨gain, presence, missed, counting, missing, silent, ?_⟩
    split
    · next e => exact idle e
    · next e => exact rising e
    · next e => exact toInternal e
    · next e => exact toLocked e
    · next e => exact toAwaiting e

section
variable {c : ClockUnit}

theorem ClockSelection.ne_internal_iff {sel : ClockSelection} : sel ≠ .internal ↔ sel = .external := by
  cases sel <;> decide

/-- The selection agrees with an external clock state where it is EXTERNAL. -/
theorem agree_of_external {sel : ClockSelection} {st : ClockState} (hsel : sel = .external) (hst : st ≠ .internal) :
    sel = .internal ↔ st = .internal := iff_of_false (ClockSelection.ne_internal_iff.mpr hsel) hst

/-! ### Selections (R140) -/

theorem ClockUnit.Course.select (h : c.Course) (sel : ClockSelection) : (c.select sel).Course := by
  by_cases hagree : sel = .internal ↔ c.state = .internal
  · rw [ClockUnit.select_of_agree hagree]
    exact h
  · cases sel with
    | internal =>
      have hstate : c.state ≠ .internal := fun e => hagree (iff_of_true rfl e)
      rw [ClockUnit.select_internal hstate]
      exact { h with
        idle := nofun, rising := nofun, toInternal := fun _ => ⟨hstate, rfl⟩, toLocked := nofun, toAwaiting := nofun }
    | external =>
      have hstate : c.state = .internal := by_contra fun e => hagree (iff_of_false nofun e)
      rw [ClockUnit.select_external hstate]
      exact { h with
        idle := nofun, rising := nofun, toInternal := nofun, toLocked := nofun, toAwaiting := fun _ => ⟨hstate, rfl⟩ }

/-- A switch completes into its course where the part is in its course with no switch in flight. -/
theorem ClockUnit.Course.complete (h : ({ c with flight := none, pendingSelection := none } : ClockUnit).Course) :
    c.complete.Course := by
  unfold ClockUnit.complete
  cases c.pendingSelection with
  | none => exact h
  | some sel => exact h.select sel

theorem ClockUnit.Course.request (h : c.Course) (sel : ClockSelection) : (c.request sel).Course := by
  by_cases hflight : c.flight = none
  · rw [ClockUnit.request_of_idle hflight]
    exact h.select sel
  · rw [ClockUnit.request_of_flight hflight]
    exact { h with idle := fun e => absurd e hflight }

/-! ### Changes of the clock state (R139, R141, R142) -/

/-- The start of an up phase in a clock state that the selection asks for. -/
theorem ClockUnit.Course.entered_up {target : ClockState} (htarget : target ≠ .awaitingExternal)
    (hagree : c.selection = .internal ↔ target = .internal) {gain : Rat} (hgain : 0 ≤ gain ∧ gain ≤ 1)
    (started : Bool) :
    ({ c.entered target with gain := gain, frameStarted := started, flight := some .up } : ClockUnit).Course where
  gain := hgain
  presence := Nat.zero_le _
  missed := Nat.zero_le _
  counting _ := rfl
  missing _ := rfl
  silent e := absurd e htarget
  idle := nofun
  rising _ := ⟨htarget, hagree⟩
  toInternal := nofun
  toLocked := nofun
  toAwaiting := nofun

/-- A change into AWAITING_EXTERNAL with EXTERNAL selected, whose switch completes. -/
theorem ClockUnit.Course.entered_awaiting (hsel : c.selection = .external) :
    ({ c.entered .awaitingExternal with gain := 0 } : ClockUnit).complete.Course :=
  ClockUnit.Course.complete {
    gain := ⟨le_rfl, zero_le_one⟩
    presence := Nat.zero_le _
    missed := Nat.zero_le _
    counting := fun _ => rfl
    missing := fun _ => rfl
    silent := fun _ => rfl
    idle := fun _ => ⟨rfl, fun hstate => absurd rfl hstate, agree_of_external hsel (by exact nofun)⟩
    rising := nofun
    toInternal := nofun
    toLocked := nofun
    toAwaiting := nofun }

/-! ### Arrivals and missed frames (R138, R141) -/

theorem ClockUnit.Course.disturb (h : c.Course) : c.disturb.Course := by
  have hzero : ({ c with presence := 0 } : ClockUnit).Course :=
    { h with presence := Nat.zero_le _, counting := fun _ => rfl }
  by_cases hflight : c.flight = some (.down .lockedExternal)
  · rw [ClockUnit.disturb_locking hflight]
    obtain ⟨hstate, hsel⟩ := h.toLocked hflight
    have hexternal : c.state ≠ .internal := by rw [hstate]; decide
    exact ClockUnit.Course.complete { hzero with
      idle := fun _ => ⟨rfl, fun hne => absurd hstate hne, agree_of_external hsel hexternal⟩
      rising := nofun, toInternal := nofun, toLocked := nofun, toAwaiting := nofun }
  · rw [ClockUnit.disturb_waiting hflight]
    exact hzero

/-! ### The frame (R139) -/

/-- The switch ramp falls to 0 in a down phase and rises to 1 in an up phase, which AWAITING_EXTERNAL has none of. -/
theorem ClockUnit.Course.advance (h : c.Course) : ({ c.advance with frameStarted := false } : ClockUnit).Course := by
  obtain ⟨hlo, hhi⟩ := h.gain
  unfold ClockUnit.advance
  split
  · refine { h with
      gain := ⟨le_max_left _ _, max_le zero_le_one (by linarith)⟩
      silent := fun hstate => ?_
      idle := fun e => ?_ }
    · have hzero : c.gain = 0 := h.silent hstate
      show max 0 (c.gain - 1 / 240) = 0
      rw [hzero]
      norm_num
    · next hflight => cases hflight.symm.trans e
  · next hflight =>
    exact { h with
      gain := ⟨le_min zero_le_one (by linarith), min_le_left _ _⟩
      silent := fun hstate => absurd hstate (h.rising hflight).1
      idle := fun e => nomatch hflight.symm.trans e }
  · exact { h with }

end

end Sys2Proof.Machine
end

section
/-! ## What leaves the timing settings, the Clock Unit and Service Control

The rules on feeds, placements, gates and notches write none of the three. -/

namespace Sys2Proof.Machine

/-- The timing settings, the Clock Unit and Service Control. -/
structure ControlRecords where
  timing : Timing
  clock : ClockUnit
  service : ServiceControl

/-- The three records of the part. -/
def State.control (s : State) : ControlRecords := ⟨s.timing, s.clock, s.service⟩

variable (s : State)

/-- A fold whose every step leaves the three leaves them. -/
theorem foldl_control {α : Type} {op : State → α → State} (h : ∀ t x, (op t x).control = t.control) (l : List α) :
    (l.foldl op s).control = s.control :=
  List.foldlRecOn l op (motive := fun t => t.control = s.control) rfl fun t ht x _ => (h t x).trans ht

/-! ### Shared operations -/

theorem State.control_refreshGains : s.refreshGains.control = s.control := rfl

theorem State.control_offer (k : FeedKey) : (s.offer k).control = s.control := by
  rw [State.offer_eq]
  rfl

theorem State.control_offerAll (keys : List FeedKey) : (s.offerAll keys).control = s.control :=
  foldl_control s State.control_offer _

theorem State.control_closeEvent (before : State) : (before.closeEvent s).control = s.control := by
  rw [State.closeEvent_eq]
  rfl

theorem State.control_drop (k : FeedKey) : (s.drop k).control = s.control := by
  unfold State.drop
  split
  · rfl
  · split
    · rfl
    · rfl
    · split <;> rfl

theorem State.control_reconcileZone (src : Source) (p : Placement) (z : Zone) :
    (s.reconcileZone src p z).control = s.control := by
  unfold State.reconcileZone
  split
  · exact State.control_offer _ _
  · split <;> exact State.control_offer _ _
  · exact s.control_drop _

theorem State.control_reconcile (src : Source) : (s.reconcile src).control = s.control := by
  unfold State.reconcile
  split
  · split
    · exact foldl_control s (fun t z => t.control_reconcileZone src _ z) _
    · rfl
  · rfl

theorem State.control_reconcileMany (chosen : Source → Bool) : (s.reconcileMany chosen).control = s.control :=
  foldl_control s State.control_reconcile _

theorem State.control_setGate (src : Source) (g : Gate) : (s.setGate src g).control = s.control := by
  rw [State.setGate_eq]
  rfl

theorem State.control_takeUpDrive (src : Source) : (s.takeUpDrive src).control = s.control :=
  s.control_setGate src _

theorem State.control_foldl_takeUpDrive : (allSources.foldl State.takeUpDrive s).control = s.control :=
  foldl_control s State.control_takeUpDrive _

theorem State.control_removeIfEmpty (src : Source) : (s.removeIfEmpty src).control = s.control := by
  unfold State.removeIfEmpty
  split
  · split <;> rfl
  · rfl

/-- A request behind the pool check that writes and finishes beside the three leaves them. -/
theorem control_afterPoolCheck (written : State) (chosen : Source → Bool) {finish : State → State}
    (hw : written.control = s.control) (hf : ∀ t, (finish t).control = t.control) :
    (afterPoolCheck s (s.poolChecked written chosen) finish).2.control = s.control := by
  rw [afterPoolCheck_eq]
  split
  · rfl
  · exact (State.control_closeEvent _ s).trans ((hf _).trans ((written.control_reconcileMany chosen).trans hw))

/-! ### The Building Store, placements and channels -/

theorem control_setStationOp (st : StationId) (position : Point) (reach : ZoneSet) :
    (setStationOp st position reach s).2.control = s.control := by
  unfold setStationOp
  dsimp only
  split
  · rfl
  · split
    · exact control_afterPoolCheck s _ _ (by rfl) fun _ => rfl
    · split
      · exact (State.control_closeEvent _ s).trans (State.control_offerAll _ _)
      · rfl

theorem control_setZoneOp (z : Zone) (r : ZoneRecord) : (setZoneOp z r s).2.control = s.control := by
  unfold setZoneOp
  dsimp only
  split
  · exact control_afterPoolCheck s _ _ (by rfl) fun _ => rfl
  · split
    · exact (State.control_closeEvent _ s).trans (State.control_offerAll _ _)
    · rfl

theorem control_setAreaOp (a : AreaId) (mode : AreaMode) : (setAreaOp a mode s).2.control = s.control := by
  unfold setAreaOp
  split
  · rfl
  · exact control_afterPoolCheck s _ _ (by rfl) fun _ => rfl

theorem control_reportTemperature (t : Int) : (reportTemperature t s).control = s.control := by
  unfold reportTemperature
  dsimp only
  split
  · exact (State.control_closeEvent _ s).trans (State.control_offerAll _ _)
  · rfl

theorem control_placeOp (src : Source) (st : StationId) (sv : Service) (level : Int) :
    (placeOp src st sv level s).2.control = s.control := by
  unfold placeOp
  dsimp only
  split
  · rfl
  · split
    · rfl
    · exact control_afterPoolCheck s _ _ (by rfl) fun t => t.control_takeUpDrive src

theorem control_moveOp (src : Source) (st : StationId) : (moveOp src st s).2.control = s.control := by
  unfold moveOp
  dsimp only
  split
  · rfl
  · split
    · rfl
    · split
      · rfl
      · split
        · rfl
        · exact control_afterPoolCheck s _ _ (by rfl) fun _ => rfl

theorem control_retireOp (src : Source) : (retireOp src s).2.control = s.control := by
  unfold retireOp
  dsimp only
  split
  · rfl
  · split
    · rfl
    · refine (State.control_closeEvent _ s).trans ((State.control_setGate _ src _).trans
        ((State.control_removeIfEmpty _ src).trans ?_))
      exact foldl_control _ (fun t z => t.control_drop _) _

theorem control_setLevelOp (src : Source) (level : Int) : (setLevelOp src level s).2.control = s.control := by
  unfold setLevelOp
  dsimp only
  split
  · rfl
  · split
    · rfl
    · exact (State.control_closeEvent _ s).trans (State.control_offerAll _ _)

theorem control_setSourceOp (src : Source) (r : SourceRecord) : (setSourceOp src r s).control = s.control := by
  unfold setSourceOp
  dsimp only
  split <;> rfl

theorem control_setGateModeOp (src : Source) (m : GateMode) : (setGateModeOp src m s).2.control = s.control := by
  unfold setGateModeOp
  dsimp only
  split
  · rfl
  · split
    · exact (State.control_closeEvent _ s).trans (State.control_setGate _ src _)
    · rfl

theorem State.control_evaluateBlock : s.evaluateBlock.control = s.control := by
  unfold State.evaluateBlock
  split
  · rw [State.control_closeEvent]
    obtain ⟨C, D, e, -⟩ := s.foldl_evaluateChannel
    rw [e]
    rfl
  · rfl

theorem State.control_expireHold (src : Source) : (s.expireHold src).control = s.control := by
  unfold State.expireHold
  dsimp only
  split
  · exact (State.control_closeEvent _ s).trans (State.control_setGate _ src _)
  · rfl

theorem State.control_completeOpening (src : Source) : (s.completeOpening src).control = s.control := by
  unfold State.completeOpening
  split
  · split
    · exact (State.control_closeEvent _ s).trans (State.control_setGate _ src _)
    · rfl
  · rfl

theorem State.control_completeClosing (src : Source) : (s.completeClosing src).control = s.control := by
  unfold State.completeClosing
  split
  · split
    · exact (State.control_closeEvent _ s).trans (State.control_setGate _ src _)
    · rfl
  · rfl

theorem State.control_completeTrim (src : Source) : (s.completeTrim src).control = s.control := by
  unfold State.completeTrim
  dsimp only
  split <;> rfl

/-! ### Feeds and mixers -/

theorem State.control_completeGlide (k : FeedKey) : (s.completeGlide k).control = s.control := by
  unfold State.completeGlide
  split
  · split
    · exact State.control_closeEvent _ s
    · rfl
  · rfl

theorem State.control_completeFadeIn (k : FeedKey) : (s.completeFadeIn k).control = s.control := by
  unfold State.completeFadeIn
  split
  · split
    · split
      · exact State.control_closeEvent _ s
      · rfl
    · rfl
  · rfl

theorem State.control_completeFadeOut (k : FeedKey) : (s.completeFadeOut k).control = s.control := by
  unfold State.completeFadeOut
  split
  · split
    · split
      · exact (State.control_closeEvent _ s).trans (State.control_removeIfEmpty _ _)
      · rfl
    · rfl
  · rfl

theorem State.control_completeGain (k : FeedKey) : (s.completeGain k).control = s.control := by
  unfold State.completeGain
  split
  · split <;> rfl
  · rfl

theorem State.control_derive : s.derive.control = s.control := by
  unfold State.derive
  split
  · rfl
  · dsimp only
    split
    · rw [State.control_closeEvent]
      split
      · rfl
      · unfold State.deriveFeed
        dsimp only
        split <;> rfl
    · rw [State.control_closeEvent]
      rfl

theorem State.control_completeMute (z : Zone) : (s.completeMute z).control = s.control := by
  unfold State.completeMute
  dsimp only
  split <;> rfl

/-! ### Cue Lines -/

theorem State.control_recordAction (l : Line) (result : ResultCode) :
    (s.recordAction l result).control = s.control := by
  unfold State.recordAction
  dsimp only
  split <;> rfl

/-! ### Notches and detectors -/

theorem State.control_placeNotch (src : Source) (n : Notch) : (s.placeNotch src n).control = s.control := by
  rw [State.placeNotch_eq]
  rfl

theorem State.control_handOver (src : Source) (b : Band) : (s.handOver src b).control = s.control := by
  unfold State.handOver State.handleCandidate
  split
  · rfl
  · split
    · rfl
    · exact State.control_placeNotch _ src _

theorem State.control_endWindowOf (src : Source) : (s.endWindowOf src).control = s.control := by
  unfold State.endWindowOf
  dsimp only
  split
  · split
    · split
      · exact State.control_handOver _ src _
      · rfl
    · rfl
  · rfl

theorem State.control_endWindow : s.endWindow.control = s.control := by
  unfold State.endWindow
  split
  · have key := foldl_control s State.control_endWindowOf allSources
    generalize allSources.foldl State.endWindowOf s = t at key ⊢
    exact key
  · rfl

theorem State.control_ageStep (src : Source) (n : Notch) : (s.ageStep src n).control = s.control := by
  unfold State.ageStep
  split <;> rfl

theorem State.control_ageNotch (src : Source) (n : Notch) : (s.ageNotch src n).control = s.control := by
  unfold State.ageNotch
  split
  · split
    · exact s.control_ageStep src n
    · rfl
  · rfl

theorem State.control_advanceAging : s.advanceAging.control = s.control := by
  have htable (t : State) (src : Source) : (t.ageTable src).control = t.control :=
    foldl_control t (fun u n => u.control_ageNotch src n) _
  unfold State.advanceAging
  split
  · have key := foldl_control s htable allSources
    generalize allSources.foldl State.ageTable s = t at key ⊢
    exact key
  · rfl

theorem State.control_completeSection (src : Source) (i : SectionSlot) :
    (s.completeSection src i).control = s.control := by
  unfold State.completeSection
  dsimp only
  split
  · split <;> rfl
  · rfl

/-! ### What a frame takes first -/

theorem State.control_takeDueChannel (src : Source) : (s.takeDueChannel src).control = s.control :=
  (foldl_control _ (fun t i => t.control_completeSection src i) _).trans ((State.control_completeTrim _ src).trans
    ((State.control_completeClosing _ src).trans (s.control_completeOpening src)))

theorem State.control_takeDueFeed (k : FeedKey) : (s.takeDueFeed k).control = s.control :=
  (State.control_completeFadeOut _ k).trans ((State.control_completeFadeIn _ k).trans
    ((State.control_completeGain _ k).trans (s.control_completeGlide k)))

/-- Of what a frame takes first, the clock switch and the service ramp alone write the three (log 20). -/
theorem State.control_takeDue :
    s.takeDue.control = s.switchChange.switchComplete.endEntry.completeServiceRamp.control := by
  unfold State.takeDue
  dsimp only
  rw [State.control_advanceAging, State.control_endWindow, State.control_evaluateBlock,
    foldl_control _ State.control_completeMute, foldl_control _ State.control_takeDueFeed,
    foldl_control _ State.control_takeDueChannel]

end Sys2Proof.Machine
end

section
/-! ## Every command keeps the Clock Unit and Service Control in their courses -/

namespace Sys2Proof.Machine

/-! ### Service Control in its course -/

/-- The service ramp falls in the quiet phase of a warm restart or rests at 0; else it moves and rests as the service
state says (R161, R167). -/
structure ServiceControl.Course (c : ServiceControl) : Prop where
  inRange : c.ramp.inRange
  quiet : c.restart ≠ none → c.ramp.step < 0 ∨ (c.ramp.value = 0 ∧ c.ramp.step = 0)
  active : c.restart = none → c.state = .active → 0 < c.ramp.step ∨ (c.ramp.value = 1 ∧ c.ramp.step = 0)
  entering : c.restart = none → c.state = .enteringStandby → c.ramp.step < 0
  standby : c.restart = none → c.state = .standby → c.ramp.value = 0 ∧ c.ramp.step = 0

theorem State.serviceOk_iff (s : State) : s.ServiceOk ↔ 0 < s.timing.fadeTime ∧ s.service.Course := by
  unfold State.ServiceOk
  refine and_congr_right fun _ => ⟨?_, ?_⟩
  · rintro ⟨hrange, hphase⟩
    refine ⟨hrange, fun hr => ?_, fun hr hs => ?_, fun hr hs => ?_, fun hr hs => ?_⟩
    · obtain ⟨cause, hcause⟩ := Option.ne_none_iff_exists'.mp hr
      rw [hcause] at hphase
      exact hphase
    all_goals
      rw [hr, hs] at hphase
      exact hphase
  · rintro ⟨hrange, quiet, active, entering, standby⟩
    refine ⟨hrange, ?_⟩
    split
    · next hr => exact quiet (by rw [hr]; nofun)
    · next hr hs => exact active hr hs
    · next hr hs => exact entering hr hs
    · next hr hs => exact standby hr hs

section
variable {c : ServiceControl}

/-- Outside a warm restart, a ramp that rises in ACTIVE. -/
theorem ServiceControl.Course.of_rising (hstate : c.state = .active) (hrun : c.restart = none) (hrange : c.ramp.inRange)
    (hstep : 0 < c.ramp.step) : c.Course where
  inRange := hrange
  quiet h := absurd hrun h
  active _ _ := .inl hstep
  entering _ e := nomatch hstate.symm.trans e
  standby _ e := nomatch hstate.symm.trans e

/-- Outside a warm restart, a ramp that falls in an entry. -/
theorem ServiceControl.Course.of_falling (hstate : c.state = .enteringStandby) (hrun : c.restart = none)
    (hrange : c.ramp.inRange) (hstep : c.ramp.step < 0) : c.Course where
  inRange := hrange
  quiet h := absurd hrun h
  active _ e := nomatch hstate.symm.trans e
  entering _ _ := hstep
  standby _ e := nomatch hstate.symm.trans e

/-- A ramp at rest at 0, in STANDBY or in the quiet phase of a warm restart. -/
theorem ServiceControl.Course.of_silent (hramp : c.ramp = Ramp.rest 0) (h : c.restart = none → c.state = .standby) :
    c.Course where
  inRange := by
    rw [hramp]
    exact ⟨le_rfl, zero_le_one⟩
  quiet _ := .inr (by rw [hramp]; exact ⟨rfl, rfl⟩)
  active hr e := nomatch (h hr).symm.trans e
  entering hr e := nomatch (h hr).symm.trans e
  standby _ _ := by rw [hramp]; exact ⟨rfl, rfl⟩

theorem Ramp.value_advance_of_resting {r : Ramp} (h : r.step = 0) : r.advance.value = r.value := by
  unfold Ramp.advance
  split
  · rfl
  · split
    · rfl
    · simp [h]

/-- One frame of the service ramp: it goes on as it moves, or rests where it rests (R161). -/
theorem ServiceControl.Course.advance (h : c.Course) : ({ c with ramp := c.ramp.advance } : ServiceControl).Course := by
  have hrests {v : Rat} (hr : c.ramp.value = v ∧ c.ramp.step = 0) :
      c.ramp.advance.value = v ∧ c.ramp.advance.step = 0 :=
    ⟨(Ramp.value_advance_of_resting hr.2).trans hr.1, c.ramp.step_advance.trans hr.2⟩
  have hstep := c.ramp.step_advance
  refine ⟨h.inRange.advance, fun hr => ?_, fun hr hs => ?_, fun hr hs => ?_, fun hr hs => hrests (h.standby hr hs)⟩
  · exact (h.quiet hr).imp (fun hlt => hstep.trans_lt hlt) hrests
  · exact (h.active hr hs).imp (fun hlt => hlt.trans_eq hstep.symm) hrests
  · exact hstep.trans_lt (h.entering hr hs)

/-- The quiet phase's ramp falls from the value held, or rests at 0 (R167). -/
theorem ServiceControl.Course.quieted (h : c.Course) (cause : RestartCause) :
    ({ c with restart := some cause, ramp := quietRamp c.ramp.value } : ServiceControl).Course := by
  unfold quietRamp
  split
  · exact ServiceControl.Course.of_silent rfl nofun
  · exact ⟨h.inRange, fun _ => .inl (by show (-(1 / 240) : Rat) < 0; norm_num), nofun, nofun, nofun⟩

/-- A service ramp that ends where it rose or in a quiet phase (R161, R167). -/
theorem ServiceControl.Course.finished (h : c.Course) (hends : 0 < c.ramp.step ∨ c.restart ≠ none) :
    ({ c with ramp := c.ramp.finish } : ServiceControl).Course := by
  by_cases hrun : c.restart = none
  · have hrising : 0 < c.ramp.step := hends.resolve_right fun hr => hr hrun
    refine ⟨h.inRange.finish, fun hr => absurd hrun hr, fun _ _ => .inr ⟨Ramp.goal_of_rising hrising, rfl⟩,
      fun hr hs => absurd (h.entering hr hs) hrising.not_gt, fun hr hs => absurd (h.standby hr hs).2 hrising.ne'⟩
  · have hzero : c.ramp.goal = 0 := by
      obtain hfalling | ⟨hvalue, hstep⟩ := h.quiet hrun
      · exact Ramp.goal_of_falling hfalling
      · simp [Ramp.goal, hstep, hvalue]
    exact ServiceControl.Course.of_silent (congrArg Ramp.rest hzero) fun hr => absurd hr hrun

theorem serviceAfterClearing_course (state : ServiceState) : (serviceAfterClearing state).Course := by
  cases state with
  | active =>
    exact .of_rising rfl rfl ⟨le_rfl, zero_le_one⟩ (by show (0 : Rat) < 1 / 240; norm_num)
  | enteringStandby | standby => exact .of_silent rfl fun _ => rfl

end

/-! ### The part in its course -/

/-- The Clock Unit and Service Control are in their courses. -/
structure State.InCourse (s : State) : Prop where
  fadeTime : 0 < s.timing.fadeTime
  clock : s.clock.Course
  service : s.service.Course

theorem State.inCourse_iff (s : State) : s.InCourse ↔ s.clock.inCourse ∧ s.ServiceOk := by
  rw [ClockUnit.inCourse_iff, State.serviceOk_iff]
  exact ⟨fun h => ⟨h.clock, h.fadeTime, h.service⟩, fun ⟨hclock, hfade, hservice⟩ => ⟨hfade, hclock, hservice⟩⟩

theorem stepOver_pos {ms : Nat} (h : 0 < ms) : 0 < stepOver ms := by
  unfold stepOver
  positivity

theorem State.reset_inCourse : State.reset.InCourse where
  fadeTime := by decide
  clock := by
    refine ⟨⟨zero_le_one, le_rfl⟩, Nat.zero_le _, Nat.zero_le _, fun _ => rfl, fun _ => rfl, nofun,
      fun _ => ⟨rfl, fun _ => rfl, iff_of_true rfl rfl⟩, nofun, nofun, nofun, nofun⟩
  service := ⟨⟨zero_le_one, le_rfl⟩, fun h => absurd rfl h, fun _ _ => .inr ⟨rfl, rfl⟩, nofun, nofun⟩

section
variable {s : State} (h : s.InCourse)
include h

theorem State.InCourse.of_control {t : State} (e : t.control = s.control) : t.InCourse := by
  obtain ⟨etiming, eclock, eservice⟩ := ControlRecords.mk.inj e
  exact ⟨by rw [etiming]; exact h.fadeTime, by rw [eclock]; exact h.clock, by rw [eservice]; exact h.service⟩

theorem State.InCourse.setClock {c : ClockUnit} (hc : c.Course) : (s.setClock c).InCourse := { h with clock := hc }

theorem State.InCourse.withService {c : ServiceControl} (hc : c.Course) : ({ s with service := c } : State).InCourse :=
  { h with service := hc }

/-! ### The Clock Unit's operations -/

theorem State.InCourse.changeClock_up {target : ClockState} (htarget : target ≠ .awaitingExternal)
    (hagree : s.clock.selection = .internal ↔ target = .internal) : (s.changeClock target 0).InCourse := by
  rw [State.changeClock_up htarget]
  exact (h.setClock (ClockUnit.Course.entered_up htarget hagree ⟨le_rfl, zero_le_one⟩ false)).of_control rfl

theorem State.InCourse.changeClock_awaiting (hsel : s.clock.selection = .external) :
    (s.changeClock .awaitingExternal 0).InCourse := by
  rw [State.changeClock_awaiting]
  exact (h.setClock (ClockUnit.Course.entered_awaiting hsel)).of_control rfl

theorem State.InCourse.switchChange : s.switchChange.InCourse := by
  by_cases hdue : ∃ target, s.clock.flight = some (.down target) ∧ target ≠ .lockedExternal ∧ s.clock.gain = 0
  · obtain ⟨target, hflight, hlock, hgain⟩ := hdue
    rw [State.switchChange_due hflight hlock hgain]
    cases target with
    | internal => exact h.changeClock_up (by decide) (iff_of_true (h.clock.toInternal hflight).2 rfl)
    | lockedExternal => exact absurd rfl hlock
    | awaitingExternal => exact h.changeClock_awaiting (h.clock.toAwaiting hflight).2
  · rw [State.switchChange_still fun target hflight => or_iff_not_imp_left.mpr fun hlock hgain =>
      hdue ⟨target, hflight, hlock, hgain⟩]
    exact h

theorem State.InCourse.switchComplete : s.switchComplete.InCourse := by
  by_cases hdue : s.clock.flight = some .up ∧ s.clock.gain = 1
  · obtain ⟨hflight, hgain⟩ := hdue
    rw [State.switchComplete_due hflight hgain]
    exact h.setClock (ClockUnit.Course.complete { h.clock with
      idle := fun _ => ⟨rfl, fun _ => hgain, (h.clock.rising hflight).2⟩
      rising := nofun, toInternal := nofun, toLocked := nofun, toAwaiting := nofun })
  · rw [State.switchComplete_still fun hflight hgain => hdue ⟨hflight, hgain⟩]
    exact h

theorem State.InCourse.startLock : s.startLock.InCourse := by
  unfold State.startLock
  split
  · next hready =>
    obtain ⟨hstate, hsel, -⟩ := hready
    exact h.setClock { h.clock with
      presence := le_rfl
      counting := fun hne => absurd hstate hne
      idle := nofun, rising := nofun, toInternal := nofun, toLocked := fun _ => ⟨hstate, hsel⟩, toAwaiting := nofun }
  · exact h

theorem State.InCourse.lockChange : s.lockChange.InCourse := by
  by_cases hflight : s.clock.flight = some (.down .lockedExternal)
  · rw [State.lockChange_locking hflight]
    have hagree : s.clock.selection = .internal ↔ ClockState.lockedExternal = .internal :=
      agree_of_external (h.clock.toLocked hflight).2 (by decide)
    exact (h.setClock (ClockUnit.Course.entered_up (by decide) hagree h.clock.gain true)).of_control rfl
  · rw [State.lockChange_still hflight]
    exact h

/-- In LOCKED_EXTERNAL the selection is EXTERNAL, but for a switch to INTERNAL in flight. -/
theorem State.InCourse.selection_locked (hstate : s.clock.state = .lockedExternal)
    (hflight : s.clock.flight ≠ some (.down .internal)) : s.clock.selection = .external := by
  have hexternal : s.clock.state ≠ .internal := by rw [hstate]; decide
  have hagreed (hagree : s.clock.selection = .internal ↔ s.clock.state = .internal) : s.clock.selection = .external :=
    ClockSelection.ne_internal_iff.mp fun e => hexternal (hagree.mp e)
  cases hf : s.clock.flight with
  | none => exact hagreed (h.clock.idle hf).2.2
  | some phase =>
    cases phase with
    | up => exact hagreed (h.clock.rising hf).2
    | down target =>
      cases target with
      | internal => exact absurd hf hflight
      | lockedExternal => exact (h.clock.toLocked hf).2
      | awaitingExternal => exact (h.clock.toAwaiting hf).2

theorem State.InCourse.loseClock : s.loseClock.InCourse := by
  by_cases hstate : s.clock.state = .lockedExternal
  · by_cases hflight : s.clock.flight = some (.down .internal)
    · rw [State.loseClock_switching hstate hflight]
      exact h.changeClock_up (by decide) (iff_of_true (h.clock.toInternal hflight).2 rfl)
    · rw [State.loseClock_holdover hstate hflight]
      exact h.changeClock_awaiting (h.selection_locked hstate hflight)
  · rw [show s.loseClock = s from if_neg hstate]
    exact h

theorem State.InCourse.arrival (x : Rat) : (s.arrival x).InCourse := by
  unfold State.arrival
  split
  · exact h
  · next hstate =>
    split
    · exact h
    · exact h.setClock { h.clock with missed := Nat.zero_le _, missing := fun _ => rfl }
  · next hstate =>
    split
    · exact h
    · split
      · exact h.setClock h.clock.disturb
      · split
        · exact h.lockChange
        · have hcounted := h.setClock (c := { s.clock with presence := min presenceFull (s.clock.presence + 1) })
            { h.clock with presence := min_le_left _ _, counting := fun hne => absurd hstate hne }
          dsimp only
          split
          · exact hcounted.startLock
          · exact hcounted

theorem State.InCourse.missFrame : s.missFrame.InCourse := by
  cases hstate : s.clock.state with
  | internal =>
    rw [State.missFrame_internal hstate]
    exact h
  | lockedExternal =>
    obtain hfew | hthree := Nat.lt_or_eq_of_le h.clock.missed
    · rw [State.missFrame_counted hstate hfew]
      exact h.setClock { h.clock with missed := hfew, missing := fun hne => absurd hstate hne }
    · rw [State.missFrame_fourth hstate hthree]
      exact h.loseClock
  | awaitingExternal =>
    simp only [State.missFrame, hstate]
    split
    · exact h
    · exact h.setClock h.clock.disturb

/-! ### Service Control's operations -/

theorem State.InCourse.beginStandby (hrun : s.service.restart = none) : s.beginStandby.InCourse := by
  unfold State.beginStandby
  split
  · exact h.withService (.of_falling rfl hrun h.service.inRange (neg_neg_of_pos (stepOver_pos h.fadeTime)))
  · exact h

theorem State.InCourse.wake (hrun : s.service.restart = none) : s.wake.InCourse := by
  have hactive : (s.setService .active (Ramp.start s.service.ramp.value (stepOver s.timing.fadeTime))).InCourse :=
    h.withService (.of_rising rfl hrun h.service.inRange (stepOver_pos h.fadeTime))
  unfold State.wake
  dsimp only
  split
  · exact h
  · exact hactive
  · exact hactive.of_control ((State.control_closeEvent _ s).trans (State.control_foldl_takeUpDrive _))

theorem State.InCourse.endEntry : s.endEntry.InCourse := by
  unfold State.endEntry
  split
  · have hentered : (s.setService .standby (Ramp.rest 0)).InCourse := h.withService (.of_silent rfl fun _ => rfl)
    refine hentered.of_control ?_
    unfold State.completeEntry
    rw [State.control_closeEvent]
    exact foldl_control _ State.control_removeIfEmpty _
  · exact h

theorem State.InCourse.completeServiceRamp : s.completeServiceRamp.InCourse := by
  unfold State.completeServiceRamp
  split
  · next hends => exact h.withService (h.service.finished hends.2)
  · exact h

theorem State.InCourse.trigger (cause : RestartCause) : (s.trigger cause).InCourse :=
  (h.withService (h.service.quieted cause)).of_control rfl

theorem State.InCourse.clear (cause : RestartCause) (pins : Byte) : (s.clear cause pins).InCourse := by
  refine (h.withService (serviceAfterClearing_course s.service.state)).of_control ?_
  unfold State.clear
  rw [State.control_refreshGains, State.control_foldl_takeUpDrive, State.control_reconcileMany]
  rfl

/-! ### Cue Lines and the timing settings -/

theorem State.InCourse.perform (hrun : s.service.restart = none) (a : CueAction) : (a.perform s).2.InCourse := by
  cases a with
  | none => exact h
  | place src st sv level => exact h.of_control (control_placeOp s src st sv level)
  | move src st => exact h.of_control (control_moveOp s src st)
  | retire src => exact h.of_control (control_retireOp s src)
  | gateMode src m => exact h.of_control (control_setGateModeOp s src m)
  | wake => exact h.wake hrun

theorem State.InCourse.debouncedChange (l : Line) : (s.debouncedChange l).InCourse := by
  have hsettled : (s.settleLine l).InCourse := h.of_control rfl
  unfold State.debouncedChange
  dsimp only
  split
  · exact h
  · next hcounts =>
    split
    · have hrun : s.service.restart = none := by
        simp only [Bool.or_eq_true, not_or, Option.not_isSome_iff_eq_none] at hcounts
        exact hcounts.1
      exact (hsettled.perform hrun _).of_control (State.control_recordAction _ l _)
    · exact hsettled

theorem State.InCourse.foldl_debouncedChange : (allLines.foldl State.debouncedChange s).InCourse :=
  List.foldlRecOn allLines _ (motive := State.InCourse) h fun _ ht l _ => ht.debouncedChange l

theorem State.InCourse.setTimingOp {new : Timing} (hnew : new.inRange) : (setTimingOp new s).InCourse := by
  unfold Machine.setTimingOp
  split
  · exact h
  · obtain ⟨-, ⟨hfade, -⟩, -⟩ := hnew
    have hpos : 0 < new.fadeTime := by omega
    exact State.InCourse.foldl_debouncedChange { h with fadeTime := hpos }

/-! ### The frame -/

theorem State.InCourse.takeDue : s.takeDue.InCourse :=
  h.switchChange.switchComplete.endEntry.completeServiceRamp.of_control s.control_takeDue

theorem State.InCourse.frame (input : Vector Sample 16) : (s.frame input).InCourse := by
  rw [s.frame_eq_tables input]
  exact ⟨h.fadeTime, h.clock.advance, h.service.advance⟩

/-! ### Every command -/

/-- A request keeps the courses where its rule, taken outside a warm restart, keeps them (R167). -/
theorem State.InCourse.onRise_leaves {act : State → Reply} (received : List Byte)
    (hact : s.service.restart = none → (act s).2.2.InCourse) : Leaves State.InCourse (onRise received s act) := by
  unfold onRise
  dsimp only
  split
  · next htakes =>
    have hrun : s.service.restart = none := by
      simp only [State.takesRequest, Bool.and_eq_true, Option.isNone_iff_eq_none] at htakes
      exact htakes.1
    split
    · exact leaves_next.mpr (h.of_control rfl)
    · exact leaves_next.mpr ((hact hrun).of_control rfl)
  · exact leaves_next.mpr (h.of_control rfl)

theorem State.InCourse.onRequest_leaves {act : State → Reply} (i : Instr)
    (hact : s.service.restart = none → (act s).2.2.InCourse) : Leaves State.InCourse (onRequest i s act) :=
  h.onRise_leaves _ hact

/-- A request whose rule leaves the three records. -/
theorem State.InCourse.onRequest_same {act : State → Reply} (i : Instr) (hact : (act s).2.2.control = s.control) :
    Leaves State.InCourse (onRequest i s act) := h.onRequest_leaves i fun _ => h.of_control hact

/-- An event that leaves the three records. -/
theorem State.InCourse.next_same {t : State} (e : t.control = s.control) : Leaves State.InCourse (.next t) :=
  leaves_next.mpr (h.of_control e)

/-- Every command keeps the Clock Unit and Service Control in their courses. -/
theorem State.InCourse.exec_leaves (i : Instr) : Leaves State.InCourse (exec i s) := by
  cases i with dsimp only [exec]
  | nop | identify | ackEvents | setEventMask | getClock | getAlignment | getTiming | listLimited | getPool | getMeters
  | getZoneMeters | getCueStatus => exact h.onRequest_same _ rfl
  | getCause =>
    refine h.onRequest_same _ ?_
    dsimp only [State.afterCause]
    split <;> rfl
  | standby => exact h.onRequest_leaves _ h.beginStandby
  | wake => exact h.onRequest_leaves _ h.wake
  | restart =>
    have hended : s.endTransaction.InCourse := h.of_control rfl
    refine leaves_next.mpr ?_
    split
    · exact hended.trigger _
    · exact hended
  | setClock selection =>
    refine h.onRequest_leaves _ fun _ => ?_
    split
    · next sel _ => exact h.setClock (h.clock.request sel)
    · exact h
  | getZone | getArea | findAtStation | getSource | setCue | clearDynamic =>
    refine h.onRequest_same _ ?_
    split <;> rfl
  | listNotches source =>
    refine h.onRequest_same _ ?_
    dsimp only
    split <;> rfl
  | getStation | getPlacement | getFeed | editNotch | retireNotch =>
    refine h.onRequest_same _ ?_
    split
    · split <;> rfl
    · rfl
  | setStation station position reach =>
    refine h.onRequest_same _ ?_
    split
    · exact control_setStationOp s _ _ _
    · rfl
  | clearStation station =>
    refine h.onRequest_same _ ?_
    split
    · split
      · rfl
      · split <;> rfl
    · rfl
  | setZone payload =>
    refine h.onRequest_same _ ?_
    split
    · exact control_setZoneOp s _ _
    · rfl
  | setArea area mode service =>
    refine h.onRequest_same _ ?_
    split
    · split
      · rfl
      · exact control_setAreaOp s _ _
    · rfl
  | setTemperature temperature => exact h.onRequest_same _ (control_reportTemperature s _)
  | setTiming payload =>
    refine h.onRequest_leaves _ fun _ => ?_
    split
    · next hnew => exact h.setTimingOp (asTiming_inRange hnew)
    · exact h
  | place source station service level =>
    refine h.onRequest_same _ ?_
    split
    · exact control_placeOp s _ _ _ _
    · rfl
  | move source station =>
    refine h.onRequest_same _ ?_
    split
    · exact control_moveOp s _ _
    · rfl
  | setLevel source level =>
    refine h.onRequest_same _ ?_
    split
    · exact control_setLevelOp s _ _
    · rfl
  | retire source =>
    refine h.onRequest_same _ ?_
    split
    · exact control_retireOp s _
    · rfl
  | setSource payload =>
    refine h.onRequest_same _ ?_
    split
    · exact control_setSourceOp s _ _
    · rfl
  | setGateMode source mode =>
    refine h.onRequest_same _ ?_
    split
    · exact control_setGateModeOp s _ _
    · rfl
  | addNotch source band depth =>
    refine h.onRequest_same _ ?_
    split
    · split
      · rfl
      · split
        · rfl
        · exact State.control_placeNotch _ _ _
    · rfl
  | frameRejected received =>
    unfold execFrameRejected
    split
    · exact h.onRise_leaves received fun _ => h
    · exact leaves_next.mpr h
  | powerOnReset cuePins => exact leaves_next.mpr (State.reset_inCourse.of_control rfl)
  | resetPin =>
    have hturned : ({ s with service := { s.service with resetPinLow := !s.service.resetPinLow } } : State).InCourse :=
      h.withService { h.service with }
    refine leaves_next.mpr ?_
    dsimp only
    split
    · exact hturned.trigger _
    · exact hturned
  | clearing cuePins =>
    refine leaves_next.mpr ?_
    split
    · split
      · exact h.clear _ _
      · exact h
    · exact h
  | derivation => exact h.next_same s.control_derive
  | glideComplete source zone => exact h.next_same (s.control_completeGlide _)
  | fadeInComplete source zone => exact h.next_same (s.control_completeFadeIn _)
  | fadeOutComplete source zone => exact h.next_same (s.control_completeFadeOut _)
  | audioFrame input =>
    refine leaves_next.mpr ?_
    split
    · exact h.takeDue.frame input
    · exact h
  | blockEvaluation => exact h.next_same s.control_evaluateBlock
  | holdExpiry source => exact h.next_same (s.control_expireHold source)
  | openingComplete source => exact h.next_same (s.control_completeOpening source)
  | closingComplete source => exact h.next_same (s.control_completeClosing source)
  | trimRampComplete source => exact h.next_same (s.control_completeTrim source)
  | windowEnd => exact h.next_same s.control_endWindow
  | ringCandidate source band =>
    refine h.next_same ?_
    split
    · exact s.control_handOver source band
    · rfl
  | agingAdvance => exact h.next_same s.control_advanceAging
  | agingStep source band =>
    refine h.next_same ?_
    split
    · split
      · exact s.control_ageStep source _
      · rfl
    · rfl
  | sectionMovementComplete source slot => exact h.next_same (s.control_completeSection source slot)
  | gainMovementComplete source zone => exact h.next_same (s.control_completeGain _)
  | muteRampComplete zone => exact h.next_same (s.control_completeMute zone)
  | debouncedChange line => exact leaves_next.mpr (h.debouncedChange line)
  | frameSyncArrival interval => exact leaves_next.mpr (h.arrival interval)
  | missedFrame => exact leaves_next.mpr h.missFrame
  | presenceCountFull => exact leaves_next.mpr h.startLock
  | lockChange => exact leaves_next.mpr h.lockChange
  | clockLoss => exact leaves_next.mpr h.loseClock
  | switchChange => exact leaves_next.mpr h.switchChange
  | switchComplete => exact leaves_next.mpr h.switchComplete
  | standbyEntryComplete => exact leaves_next.mpr h.endEntry
  | serviceRampComplete => exact leaves_next.mpr h.completeServiceRamp
  | transactionStart =>
    refine h.next_same ?_
    split <;> rfl
  | cuePinSample pins => exact leaves_next.mpr (h.foldl_debouncedChange.of_control rfl)

end

/-- Settles O59: the conditions on the two units are one condition on the timing settings, the clock and the service
records, which every command keeps or leaves (R137 to R142, R161, R167). -/
theorem clockAndServiceStayInCourse : Obligations.ClockAndServiceStayInCourse := by
  unfold Obligations.ClockAndServiceStayInCourse
  intro s t hs hstep
  have h : s.InCourse := s.inCourse_iff.mpr hs
  refine t.inCourse_iff.mp (step_leaves h (fun i rest => ?_) hstep)
  have hpopped : ({ s with pending := rest } : State).InCourse := h.of_control rfl
  exact hpopped.exec_leaves i

end Sys2Proof.Machine
end

section
/-! ## Frames of requests

A request's payload spells the request whatever filler follows it, each field at its offset (spec 12, R168), and the frame
checks of R149 say which frames are discarded. -/

namespace Sys2Proof

/-! ### A request's own frame -/

/-- The two bytes of a field, most significant first, are the field. -/
theorem halfBytes_rejoined (h : Half) : h.extractLsb' 8 8 ++ h.extractLsb' 0 8 = h := by
  rw [BitVec.extractLsb'_append_extractLsb'_eq_extractLsb' (by decide)]
  exact BitVec.extractLsb'_eq_self

/-- The three bytes of a zone set, that of zone 23 first, are the zone set. -/
theorem zoneSetBytes_rejoined (z : ZoneSet) :
    z.extractLsb' 16 8 ++ z.extractLsb' 8 8 ++ z.extractLsb' 0 8 = z := by
  have hhigh : z.extractLsb' 16 8 ++ z.extractLsb' 8 8 = z.extractLsb' 8 16 :=
    BitVec.extractLsb'_append_extractLsb'_eq_extractLsb' (by decide)
  have hall : z.extractLsb' 8 16 ++ z.extractLsb' 0 8 = z.extractLsb' 0 24 :=
    BitVec.extractLsb'_append_extractLsb'_eq_extractLsb' (by decide)
  rw [hhigh, hall]
  exact BitVec.extractLsb'_eq_self

/-- A request's payload spells the request, whatever bytes follow it: one-byte fields are read at their offsets, and wider
ones are rejoined from their bytes (spec 12, R168). -/
theorem requestOf_payload {i : Instr} {code : Byte} (h : requestCode i = some code) (filler : List Byte) :
    requestOf code.toNat (requestPayload i ++ filler) = some i := by
  cases i with
  | nop | identify | getCause | standby | wake | restart | getClock | getAlignment | getTiming | listLimited | getPool
  | getMeters | getZoneMeters | getCueStatus =>
    cases h
    rfl
  | ackEvents | setEventMask | setClock | getStation | clearStation | getZone | setArea | getArea | move | retire
  | getPlacement | findAtStation | getFeed | getSource | setGateMode | listNotches | addNotch | editNotch | retireNotch
  | clearDynamic =>
    cases h
    rfl
  | setStation | setZone | setTemperature | setTiming | place | setLevel | setSource | setCue =>
    cases h
    simp [requestOf, requestPayload, pointBytes, halfBytes, zoneSetBytes, pointAt, halfAt, zoneSetAt, byteAt,
      halfBytes_rejoined, zoneSetBytes_rejoined]
  | _ => cases h

/-! ### The frame checks (R149) -/

section
variable {received payload : List Byte} {code n : Byte} {len : Nat}

theorem frameProblem_of_no_length (h : received.length < 2) : frameProblem received = some .shortFrame := by
  match received, h with
  | [], _ => rfl
  | [_], _ => rfl

theorem frameProblem_of_no_request (h : requestLength code.toNat = none) :
    frameProblem (code :: n :: payload) = some .unknownRequest := by
  simp [frameProblem, h]

theorem frameProblem_of_wrong_length (h : requestLength code.toNat = some len) (hn : n.toNat ≠ len) :
    frameProblem (code :: n :: payload) = some .badLength := by
  simp [frameProblem, h, hn]

theorem frameProblem_of_cut_payload (h : requestLength code.toNat = some len) (hn : n.toNat = len)
    (hp : payload.length < len) : frameProblem (code :: n :: payload) = some .shortFrame := by
  simp [frameProblem, h, hn, hp]

theorem frameProblem_of_whole_payload (h : requestLength code.toNat = some len) (hn : n.toNat = len)
    (hp : len ≤ payload.length) : frameProblem (code :: n :: payload) = none := by
  simp [frameProblem, h, hn, hp]

end

/-- A request's frame passes every check and is read as the request, whatever filler follows it (R149). -/
theorem decodeFrame_request {i : Instr} {code : Byte} (h : requestCode i = some code) (filler : List Byte) :
    decodeFrame (code :: BitVec.ofNat 8 (requestPayload i).length :: requestPayload i ++ filler) = i := by
  have hshort := Machine.requestPayload_length i
  have hkept : (code :: BitVec.ofNat 8 (requestPayload i).length :: requestPayload i ++ filler).take 50 =
      code :: BitVec.ofNat 8 (requestPayload i).length ::
        (requestPayload i ++ filler.take (48 - (requestPayload i).length)) := by
    simp [List.take_append, List.take_of_length_le (show (requestPayload i).length ≤ 48 by omega)]
  have hlength : (BitVec.ofNat 8 (requestPayload i).length).toNat = (requestPayload i).length := by
    rw [BitVec.toNat_ofNat]
    omega
  have hpasses := frameProblem_of_whole_payload (Machine.requestLength_of_code h) hlength
    (payload := requestPayload i ++ filler.take (48 - (requestPayload i).length)) (by simp)
  have hspells := requestOf_payload h (filler.take (48 - (requestPayload i).length))
  simp only [decodeFrame, hkept, hpasses]
  exact congrArg (Option.getD · _) hspells

/-- Settles O3: a request's frame is its code, its payload's length and its payload, which the decoder reads back. -/
theorem frameReadBack : Obligations.FrameReadBack := by
  unfold Obligations.FrameReadBack
  intro i frame filler hframe
  obtain ⟨code, hcode, rfl⟩ := Option.map_eq_some_iff.mp hframe
  exact decodeFrame_request hcode filler

end Sys2Proof

namespace Sys2Proof.Machine

section
variable {s : State} {received payload : List Byte} {code n : Byte} {problem : FrameProblem}

/-- Of a frame with its code and its length, the first 48 bytes of the payload are kept; its failure is answered with the
code of the check and the echoed command code (R148, R149). -/
theorem exec_frameRejected_taken (h : s.takesRequest = true)
    (hp : frameProblem (code :: n :: payload.take 48) = some problem) :
    exec (.frameRejected (code :: n :: payload)) s = .next (s.respond (frameResult problem) code []) :=
  execFrameRejected_taken hp h

/-- A frame that fails a check in a transaction without a request ends it (R151, R167). -/
theorem exec_frameRejected_ended (h : s.takesRequest = false) (hp : frameProblem (received.take 50) = some problem) :
    exec (.frameRejected received) s = .next s.endTransaction := by
  simp [exec, execFrameRejected, onRise, Link.receive_receiveBuffer, hp, h]

/-- Bytes that pass every check are no rejected frame (log 4). -/
theorem exec_frameRejected_still (hp : frameProblem (received.take 50) = none) :
    exec (.frameRejected received) s = .next s := by
  simp [exec, execFrameRejected, Link.receive_receiveBuffer, hp]

end

/-- Settles O4: what each check finds in the bytes kept of a frame (R148, R149). -/
theorem frameChecks : Obligations.FrameChecks := by
  unfold Obligations.FrameChecks
  refine fun s h => ⟨execFrameRejected_taken (p := .shortFrame) rfl h,
    fun code => execFrameRejected_taken (p := .shortFrame) rfl h,
    fun code n payload => ⟨fun hnone => ?unknown, fun len hlen => ⟨fun hn => ?wrong, fun hn hp => ?cut⟩⟩⟩
  case unknown => exact exec_frameRejected_taken h (frameProblem_of_no_request hnone)
  case wrong => exact exec_frameRejected_taken h (frameProblem_of_wrong_length hlen hn)
  case cut =>
    have hkept : (payload.take 48).length < len := (List.length_take_le' 48 payload).trans_lt hp
    exact exec_frameRejected_taken h (frameProblem_of_cut_payload hlen hn hkept)

end Sys2Proof.Machine
end

section
/-! ## The start of a transaction -/

namespace Sys2Proof.Machine

variable {s : State}

/-- The held response as it shifts out: its status byte carries Attention above the result code (R150; spec 12, Frames). -/
theorem State.responseBytes_eq (s : State) : s.link.response.bytes s.attention =
    (if s.link.flags &&& s.link.mask = 0 then BitVec.ofNat 8 s.link.response.result.code
      else BitVec.ofNat 8 (128 + s.link.response.result.code)) ::
      s.link.response.echo :: BitVec.ofNat 8 s.link.response.payload.length :: s.link.response.payload := by
  by_cases h : s.link.flags &&& s.link.mask = 0
  · have hattention : s.attention = false := by simp [State.attention, h]
    simp [Response.bytes, statusByte, byteOf, hattention, h]
  · have hattention : s.attention = true := bne_iff_ne.mpr h
    rw [if_neg h, hattention]
    rfl

/-- Settles O5: the fall of chip select outside a transaction, within one and in a warm restart, and the bytes clocked after
it (R148, R150, R151, R167). -/
theorem transactionStarts : Obligations.TransactionStarts := by
  unfold Obligations.TransactionStarts
  refine ⟨fun s hidle hrun => ?starts, fun s hbusy => ?busy, fun s hidle hrestart => ?restarting,
    fun t n => t.read_eq n, fun l bytes => l.receive_receiveBuffer bytes⟩
  case starts =>
    rw [← State.responseBytes_eq]
    simp [exec, execTransactionStart, hidle, hrun]
  case busy => simp [exec, execTransactionStart, Option.isSome_iff_ne_none.mpr hbusy]
  case restarting => simp [exec, execTransactionStart, hidle, hrestart]

end Sys2Proof.Machine
end

section
/-! ## What the events leave of the response and the mask

The response held and the event mask are the host's: of the link the rules of the part use only the event flags (R151,
R156). -/

namespace Sys2Proof.Machine

/-- The response held and the event mask. -/
def State.answerAndMask (s : State) : Response × BitVec 7 := (s.link.response, s.link.mask)

variable (s : State)

/-- An operation that commutes with a change of the rest of the link leaves that rest. -/
theorem State.answerAndMask_of_behind {s t : State} (h : t = t.behind s.cues s.link) :
    t.answerAndMask = s.answerAndMask := (congrArg State.answerAndMask h).trans rfl

/-- A fold whose every step leaves the response and the mask leaves them. -/
theorem foldl_answerAndMask {α : Type} {op : State → α → State} (h : ∀ t x, (op t x).answerAndMask = t.answerAndMask)
    (l : List α) : (l.foldl op s).answerAndMask = s.answerAndMask :=
  List.foldlRecOn l op (motive := fun t => t.answerAndMask = s.answerAndMask) rfl fun t ht x _ => (h t x).trans ht

/-! ### Feeds, placements and gates -/

theorem State.answerAndMask_offerAll (keys : List FeedKey) : (s.offerAll keys).answerAndMask = s.answerAndMask :=
  foldl_answerAndMask s (fun t k => State.answerAndMask_of_behind (t.offer_behind k)) _

theorem State.answerAndMask_reconcileMany (chosen : Source → Bool) :
    (s.reconcileMany chosen).answerAndMask = s.answerAndMask :=
  State.answerAndMask_of_behind (s.reconcileMany_behind chosen)

theorem State.answerAndMask_removeIfEmpty (src : Source) : (s.removeIfEmpty src).answerAndMask = s.answerAndMask :=
  State.answerAndMask_of_behind (s.removeIfEmpty_behind src)

theorem State.answerAndMask_setGate (src : Source) (g : Gate) : (s.setGate src g).answerAndMask = s.answerAndMask :=
  State.answerAndMask_of_behind (s.setGate_behind src g)

theorem State.answerAndMask_foldl_takeUpDrive (l : List Source) :
    (l.foldl State.takeUpDrive s).answerAndMask = s.answerAndMask :=
  foldl_answerAndMask s (fun t src => t.answerAndMask_setGate src _) l

theorem State.answerAndMask_closeEvent (before : State) : (before.closeEvent s).answerAndMask = s.answerAndMask := by
  rw [State.closeEvent_eq]
  rfl

/-! ### The rules that own the requests

A rule answers a result code, a payload and the part after it. A refusal leaves the part as it was (R152). -/

/-- What a rule answers on a part: a refusal of the part as it was, or an acceptance that writes neither the response held
nor the event mask. -/
structure Reply.Whole (s : State) (r : Reply) : Prop where
  refused : r.1 ≠ .ok → r = refuse s r.1
  kept : r.2.2.answerAndMask = s.answerAndMask

section
variable {s}

theorem Reply.Whole.refuse (code : ResultCode) : Reply.Whole s (refuse s code) := ⟨fun _ => rfl, rfl⟩

theorem Reply.Whole.ok {t : State} (payload : List Byte) (h : t.answerAndMask = s.answerAndMask) :
    Reply.Whole s (.ok, payload, t) := ⟨fun hne => absurd rfl hne, h⟩

theorem Reply.Whole.readOut (payload : List Byte) : Reply.Whole s (readOut s payload) := .ok payload rfl

theorem Reply.Whole.accept {t : State} (h : t.answerAndMask = s.answerAndMask) : Reply.Whole s (accept t) := .ok [] h

/-- A request that may allocate is refused whole (R29). -/
theorem Reply.Whole.afterPoolCheck {written : State} (chosen : Source → Bool) {finish : State → State}
    (hw : written.answerAndMask = s.answerAndMask) (hf : ∀ t, (finish t).answerAndMask = t.answerAndMask) :
    Reply.Whole s (bare (afterPoolCheck s (s.poolChecked written chosen) finish)) := by
  rw [afterPoolCheck_eq]
  split
  · exact .refuse .poolFull
  · exact .accept ((State.answerAndMask_closeEvent _ s).trans
      ((hf _).trans ((written.answerAndMask_reconcileMany chosen).trans hw)))

/-- Offers at the end of an event. -/
theorem State.answerAndMask_closeEvent_offerAll {written : State} (keys : List FeedKey)
    (hw : written.answerAndMask = s.answerAndMask) :
    (s.closeEvent (written.offerAll keys)).answerAndMask = s.answerAndMask :=
  (State.answerAndMask_closeEvent _ s).trans ((written.answerAndMask_offerAll keys).trans hw)

end

theorem setStationOp_whole (st : StationId) (position : Point) (reach : ZoneSet) :
    Reply.Whole s (bare (setStationOp st position reach s)) := by
  unfold setStationOp
  dsimp only
  split
  · exact .accept rfl
  · split
    · exact .afterPoolCheck _ rfl fun _ => rfl
    · split
      · exact .accept (State.answerAndMask_closeEvent_offerAll _ rfl)
      · exact .accept rfl

theorem setZoneOp_whole (z : Zone) (r : ZoneRecord) : Reply.Whole s (bare (setZoneOp z r s)) := by
  unfold setZoneOp
  dsimp only
  split
  · exact .afterPoolCheck _ rfl fun _ => rfl
  · split
    · exact .accept (State.answerAndMask_closeEvent_offerAll _ rfl)
    · exact .accept rfl

theorem setAreaOp_whole (a : AreaId) (mode : AreaMode) : Reply.Whole s (bare (setAreaOp a mode s)) := by
  unfold setAreaOp
  split
  · exact .accept rfl
  · exact .afterPoolCheck _ rfl fun _ => rfl

theorem answerAndMask_reportTemperature (t : Int) : (reportTemperature t s).answerAndMask = s.answerAndMask := by
  unfold reportTemperature
  dsimp only
  split
  · exact State.answerAndMask_closeEvent_offerAll _ rfl
  · rfl

theorem placeOp_whole (src : Source) (st : StationId) (sv : Service) (level : Int) :
    Reply.Whole s (bare (placeOp src st sv level s)) := by
  unfold placeOp
  dsimp only
  split
  · exact .refuse .alreadyPlaced
  · split
    · exact .refuse .absent
    · exact .afterPoolCheck _ rfl fun t => t.answerAndMask_setGate src _

theorem moveOp_whole (src : Source) (st : StationId) : Reply.Whole s (bare (moveOp src st s)) := by
  unfold moveOp
  dsimp only
  split
  · exact .refuse .absent
  · split
    · exact .refuse .retiring
    · split
      · exact .refuse .absent
      · split
        · exact .accept rfl
        · exact .afterPoolCheck _ rfl fun _ => rfl

theorem setLevelOp_whole (src : Source) (level : Int) : Reply.Whole s (bare (setLevelOp src level s)) := by
  unfold setLevelOp
  dsimp only
  split
  · exact .refuse .absent
  · split
    · exact .refuse .retiring
    · exact .accept (State.answerAndMask_closeEvent_offerAll _ rfl)

theorem retireOp_whole (src : Source) : Reply.Whole s (bare (retireOp src s)) := by
  have hdrops (t : State) : (allZones.foldl (fun t z => t.drop (src, z)) t).answerAndMask = t.answerAndMask :=
    foldl_answerAndMask t (fun t z => State.answerAndMask_of_behind (t.drop_behind (src, z))) _
  unfold retireOp
  dsimp only
  split
  · exact .refuse .absent
  · split
    · exact .accept rfl
    · exact .accept ((State.answerAndMask_closeEvent _ s).trans ((State.answerAndMask_setGate _ src _).trans
        ((State.answerAndMask_removeIfEmpty _ src).trans (hdrops _))))

theorem setGateModeOp_whole (src : Source) (m : GateMode) : Reply.Whole s (bare (setGateModeOp src m s)) := by
  unfold setGateModeOp
  dsimp only
  split
  · exact .accept rfl
  · split
    · exact .accept ((State.answerAndMask_closeEvent _ s).trans (State.answerAndMask_setGate _ src _))
    · exact .accept rfl

theorem State.answerAndMask_wake : s.wake.answerAndMask = s.answerAndMask :=
  State.answerAndMask_of_behind s.wake_behind

/-- A cue action is the operation of a request, without a response (R130, R151). -/
theorem State.answerAndMask_perform (a : CueAction) : (a.perform s).2.answerAndMask = s.answerAndMask := by
  cases a with
  | none => rfl
  | place src st sv level => exact (placeOp_whole s src st sv level).kept
  | move src st => exact (moveOp_whole s src st).kept
  | retire src => exact (retireOp_whole s src).kept
  | gateMode src m => exact (setGateModeOp_whole s src m).kept
  | wake => exact s.answerAndMask_wake

/-! ### Gates and feeds in their courses -/

theorem State.answerAndMask_evaluateBlock : s.evaluateBlock.answerAndMask = s.answerAndMask := by
  unfold State.evaluateBlock
  split
  · obtain ⟨C, D, e, -⟩ := s.foldl_evaluateChannel
    rw [State.answerAndMask_closeEvent, e]
    rfl
  · rfl

theorem State.answerAndMask_expireHold (src : Source) : (s.expireHold src).answerAndMask = s.answerAndMask := by
  unfold State.expireHold
  dsimp only
  split
  · exact (State.answerAndMask_closeEvent _ s).trans (State.answerAndMask_setGate _ src _)
  · rfl

theorem State.answerAndMask_completeOpening (src : Source) :
    (s.completeOpening src).answerAndMask = s.answerAndMask := by
  unfold State.completeOpening
  split
  · split
    · exact (State.answerAndMask_closeEvent _ s).trans (s.answerAndMask_setGate src _)
    · rfl
  · rfl

theorem State.answerAndMask_completeClosing (src : Source) :
    (s.completeClosing src).answerAndMask = s.answerAndMask := by
  unfold State.completeClosing
  split
  · split
    · exact (State.answerAndMask_closeEvent _ s).trans (s.answerAndMask_setGate src _)
    · rfl
  · rfl

theorem State.answerAndMask_completeTrim (src : Source) : (s.completeTrim src).answerAndMask = s.answerAndMask := by
  unfold State.completeTrim
  dsimp only
  split <;> rfl

theorem State.answerAndMask_completeGlide (k : FeedKey) : (s.completeGlide k).answerAndMask = s.answerAndMask := by
  unfold State.completeGlide
  split
  · split
    · exact State.answerAndMask_closeEvent _ s
    · rfl
  · rfl

theorem State.answerAndMask_completeFadeIn (k : FeedKey) : (s.completeFadeIn k).answerAndMask = s.answerAndMask := by
  unfold State.completeFadeIn
  split
  · split
    · split
      · exact State.answerAndMask_closeEvent _ s
      · rfl
    · rfl
  · rfl

theorem State.answerAndMask_completeFadeOut (k : FeedKey) : (s.completeFadeOut k).answerAndMask = s.answerAndMask := by
  unfold State.completeFadeOut
  split
  · split
    · split
      · exact (State.answerAndMask_closeEvent _ s).trans (State.answerAndMask_removeIfEmpty _ _)
      · rfl
    · rfl
  · rfl

theorem State.answerAndMask_completeGain (k : FeedKey) : (s.completeGain k).answerAndMask = s.answerAndMask := by
  unfold State.completeGain
  split
  · split <;> rfl
  · rfl

theorem State.answerAndMask_derive : s.derive.answerAndMask = s.answerAndMask := by
  unfold State.derive
  split
  · rfl
  · dsimp only
    split
    · rw [State.answerAndMask_closeEvent]
      split
      · rfl
      · rw [State.deriveFeed_eq]
        rfl
    · exact State.answerAndMask_closeEvent _ s

/-! ### Notches and detectors -/

theorem State.answerAndMask_handOver (src : Source) (b : Band) : (s.handOver src b).answerAndMask = s.answerAndMask := by
  obtain ⟨flags, e, -⟩ := (s.setDetector src (vget s.detectors src).endRun).handleCandidate_eq src b
  rw [State.handOver, e]
  rfl

theorem State.answerAndMask_endWindow : s.endWindow.answerAndMask = s.answerAndMask := by
  by_cases h : 1024 ≤ s.windowCount
  · obtain ⟨flags, e, -⟩ := State.endWindow_eq h
    rw [e]
    rfl
  · rw [State.endWindow, if_neg h]

theorem State.answerAndMask_ageStep (src : Source) (n : Notch) : (s.ageStep src n).answerAndMask = s.answerAndMask := by
  unfold State.ageStep
  split <;> rfl

theorem State.answerAndMask_ageNotch (src : Source) (n : Notch) :
    (s.ageNotch src n).answerAndMask = s.answerAndMask := by
  unfold State.ageNotch
  split
  · split
    · exact s.answerAndMask_ageStep src n
    · rfl
  · rfl

theorem State.answerAndMask_advanceAging : s.advanceAging.answerAndMask = s.answerAndMask := by
  have htables := foldl_answerAndMask s (op := State.ageTable)
    (fun t src => foldl_answerAndMask t (fun u n => u.answerAndMask_ageNotch src n) _) allSources
  unfold State.advanceAging
  split
  · generalize allSources.foldl State.ageTable s = t at htables ⊢
    exact htables
  · rfl

theorem State.answerAndMask_completeSection (src : Source) (i : SectionSlot) :
    (s.completeSection src i).answerAndMask = s.answerAndMask := by
  unfold State.completeSection
  dsimp only
  split
  · split <;> rfl
  · rfl

/-! ### Service control and the clock -/

theorem State.answerAndMask_endEntry : s.endEntry.answerAndMask = s.answerAndMask := by
  unfold State.endEntry
  split
  · rw [State.completeEntry_eq, State.answerAndMask_closeEvent]
    exact foldl_answerAndMask _ State.answerAndMask_removeIfEmpty _
  · rfl

theorem State.answerAndMask_completeServiceRamp : s.completeServiceRamp.answerAndMask = s.answerAndMask := by
  unfold State.completeServiceRamp
  split <;> rfl

theorem State.answerAndMask_changeClock (target : ClockState) (gain : Rat) :
    (s.changeClock target gain).answerAndMask = s.answerAndMask := by
  unfold State.changeClock
  dsimp only
  split <;> rfl

theorem State.answerAndMask_switchChange : s.switchChange.answerAndMask = s.answerAndMask := by
  unfold State.switchChange
  split
  · split
    · rfl
    · exact s.answerAndMask_changeClock _ _
  · rfl

theorem State.answerAndMask_switchComplete : s.switchComplete.answerAndMask = s.answerAndMask := by
  unfold State.switchComplete
  split <;> rfl

theorem State.answerAndMask_startLock : s.startLock.answerAndMask = s.answerAndMask := by
  unfold State.startLock
  split <;> rfl

theorem State.answerAndMask_lockChange : s.lockChange.answerAndMask = s.answerAndMask := by
  unfold State.lockChange
  split
  · exact s.answerAndMask_changeClock _ _
  · rfl

theorem State.answerAndMask_loseClock : s.loseClock.answerAndMask = s.answerAndMask := by
  unfold State.loseClock
  split
  · split
    · exact s.answerAndMask_changeClock _ _
    · rfl
  · rfl

theorem State.answerAndMask_arrival (interval : Rat) : (s.arrival interval).answerAndMask = s.answerAndMask := by
  unfold State.arrival
  dsimp only
  split
  · rfl
  · split <;> rfl
  · split
    · rfl
    · split
      · rfl
      · split
        · exact s.answerAndMask_lockChange
        · split
          · exact State.answerAndMask_startLock _
          · rfl

theorem State.answerAndMask_missFrame : s.missFrame.answerAndMask = s.answerAndMask := by
  unfold State.missFrame
  dsimp only
  split
  · rfl
  · split <;> rfl
  · split
    · exact State.answerAndMask_loseClock _
    · rfl

/-! ### Cue Lines and the frame -/

theorem State.answerAndMask_recordAction (l : Line) (result : ResultCode) :
    (s.recordAction l result).answerAndMask = s.answerAndMask := by
  unfold State.recordAction
  dsimp only
  split <;> rfl

theorem State.answerAndMask_debouncedChange (l : Line) : (s.debouncedChange l).answerAndMask = s.answerAndMask := by
  unfold State.debouncedChange
  dsimp only
  split
  · rfl
  · split
    · exact (State.answerAndMask_recordAction _ l _).trans (State.answerAndMask_perform (s.settleLine l) _)
    · rfl

theorem State.answerAndMask_foldl_debouncedChange (l : List Line) :
    (l.foldl State.debouncedChange s).answerAndMask = s.answerAndMask :=
  foldl_answerAndMask s State.answerAndMask_debouncedChange l

theorem State.answerAndMask_completeMute (z : Zone) : (s.completeMute z).answerAndMask = s.answerAndMask := by
  unfold State.completeMute
  dsimp only
  split <;> rfl

theorem State.answerAndMask_takeDueChannel (src : Source) : (s.takeDueChannel src).answerAndMask = s.answerAndMask :=
  (foldl_answerAndMask _ (fun t i => t.answerAndMask_completeSection src i) _).trans
    ((State.answerAndMask_completeTrim _ src).trans
      ((State.answerAndMask_completeClosing _ src).trans (s.answerAndMask_completeOpening src)))

theorem State.answerAndMask_takeDueFeed (k : FeedKey) : (s.takeDueFeed k).answerAndMask = s.answerAndMask :=
  (State.answerAndMask_completeFadeOut _ k).trans ((State.answerAndMask_completeFadeIn _ k).trans
    ((State.answerAndMask_completeGain _ k).trans (s.answerAndMask_completeGlide k)))

theorem State.answerAndMask_takeDue : s.takeDue.answerAndMask = s.answerAndMask := by
  unfold State.takeDue
  dsimp only
  rw [State.answerAndMask_advanceAging, State.answerAndMask_endWindow, State.answerAndMask_evaluateBlock,
    foldl_answerAndMask _ State.answerAndMask_completeMute, foldl_answerAndMask _ State.answerAndMask_takeDueFeed,
    foldl_answerAndMask _ State.answerAndMask_takeDueChannel, State.answerAndMask_completeServiceRamp,
    State.answerAndMask_endEntry, State.answerAndMask_switchComplete, State.answerAndMask_switchChange]

theorem State.answerAndMask_frame (input : Vector Sample 16) : (s.frame input).answerAndMask = s.answerAndMask := by
  obtain ⟨portA, portB, e⟩ := s.frame_eq input
  rw [e]
  rfl

/-! ### Every event -/

/-- Every event but a rejected frame and the resets leaves the response held and the mask. -/
theorem exec_answerAndMask {i : Instr} (h : requestCode i = none) (hrejected : ∀ received, i ≠ .frameRejected received)
    (hreset : ∀ pins, i ≠ .powerOnReset pins) (hclearing : ∀ pins, i ≠ .clearing pins) :
    Leaves (fun t => t.answerAndMask = s.answerAndMask) (exec i s) := by
  cases i with dsimp only [exec]
  | frameRejected received => exact absurd rfl (hrejected received)
  | powerOnReset pins => exact absurd rfl (hreset pins)
  | clearing pins => exact absurd rfl (hclearing pins)
  | resetPin =>
    refine leaves_next.mpr ?_
    dsimp only
    split <;> rfl
  | transactionStart =>
    refine leaves_next.mpr ?_
    split <;> rfl
  | derivation => exact leaves_next.mpr s.answerAndMask_derive
  | glideComplete source zone => exact leaves_next.mpr (s.answerAndMask_completeGlide _)
  | fadeInComplete source zone => exact leaves_next.mpr (s.answerAndMask_completeFadeIn _)
  | fadeOutComplete source zone => exact leaves_next.mpr (s.answerAndMask_completeFadeOut _)
  | gainMovementComplete source zone => exact leaves_next.mpr (s.answerAndMask_completeGain _)
  | audioFrame input =>
    refine leaves_next.mpr ?_
    split
    · exact (State.answerAndMask_frame _ input).trans s.answerAndMask_takeDue
    · rfl
  | blockEvaluation => exact leaves_next.mpr s.answerAndMask_evaluateBlock
  | holdExpiry source => exact leaves_next.mpr (s.answerAndMask_expireHold source)
  | openingComplete source => exact leaves_next.mpr (s.answerAndMask_completeOpening source)
  | closingComplete source => exact leaves_next.mpr (s.answerAndMask_completeClosing source)
  | trimRampComplete source => exact leaves_next.mpr (s.answerAndMask_completeTrim source)
  | muteRampComplete zone => exact leaves_next.mpr (s.answerAndMask_completeMute zone)
  | windowEnd => exact leaves_next.mpr s.answerAndMask_endWindow
  | ringCandidate source band =>
    refine leaves_next.mpr ?_
    split
    · exact s.answerAndMask_handOver source band
    · rfl
  | agingAdvance => exact leaves_next.mpr s.answerAndMask_advanceAging
  | agingStep source band =>
    refine leaves_next.mpr ?_
    split
    · split
      · exact s.answerAndMask_ageStep source _
      · rfl
    · rfl
  | sectionMovementComplete source slot => exact leaves_next.mpr (s.answerAndMask_completeSection source slot)
  | debouncedChange line => exact leaves_next.mpr (s.answerAndMask_debouncedChange line)
  | cuePinSample pins => exact leaves_next.mpr (s.answerAndMask_foldl_debouncedChange allLines)
  | frameSyncArrival interval => exact leaves_next.mpr (s.answerAndMask_arrival interval)
  | missedFrame => exact leaves_next.mpr s.answerAndMask_missFrame
  | presenceCountFull => exact leaves_next.mpr s.answerAndMask_startLock
  | lockChange => exact leaves_next.mpr s.answerAndMask_lockChange
  | clockLoss => exact leaves_next.mpr s.answerAndMask_loseClock
  | switchChange => exact leaves_next.mpr s.answerAndMask_switchChange
  | switchComplete => exact leaves_next.mpr s.answerAndMask_switchComplete
  | standbyEntryComplete => exact leaves_next.mpr s.answerAndMask_endEntry
  | serviceRampComplete => exact leaves_next.mpr s.answerAndMask_completeServiceRamp
  | _ => cases h

/-- Settles O9: no event that does not come through the link writes the response (R151). -/
theorem eventsKeepTheResponse : Obligations.EventsKeepTheResponse := by
  unfold Obligations.EventsKeepTheResponse
  intro i s t h hrejected hreset hclearing ht
  exact congrArg Prod.fst (exec_answerAndMask s h hrejected hreset hclearing t ht)

end Sys2Proof.Machine
end

section
/-! ## Every request and the rule that owns it -/

namespace Sys2Proof.Machine

variable (s : State)

/-! ### Operations of requests alone -/

theorem answerAndMask_setTimingOp (new : Timing) : (setTimingOp new s).answerAndMask = s.answerAndMask := by
  unfold setTimingOp
  split
  · rfl
  · exact State.answerAndMask_foldl_debouncedChange _ allLines

theorem answerAndMask_setSourceOp (src : Source) (r : SourceRecord) :
    (setSourceOp src r s).answerAndMask = s.answerAndMask := by
  rw [setSourceOp_eq]
  rfl

theorem State.answerAndMask_placeNotch (src : Source) (n : Notch) :
    (s.placeNotch src n).answerAndMask = s.answerAndMask := by
  rw [State.placeNotch_eq]
  rfl

theorem State.answerAndMask_beginStandby : s.beginStandby.answerAndMask = s.answerAndMask := by
  unfold State.beginStandby
  split <;> rfl

theorem State.answerAndMask_afterCause : s.afterCause.answerAndMask = s.answerAndMask := by
  unfold State.afterCause
  split
  · rfl
  · rfl
  · rfl

/-! ### Every request -/

/-- How a request is answered on every part: by one rule, which refuses it whole or, SET_EVENT_MASK apart, leaves the
response and the mask. -/
def AnsweredByRule (i : Instr) (run : State → Answer) : Prop :=
  ∃ act : State → Reply, (∀ s, run s = onRequest i s act) ∧ (∀ s, (act s).1 ≠ .ok → act s = refuse s (act s).1) ∧
    ((∀ mask, i ≠ .setEventMask mask) → ∀ s, (act s).2.2.answerAndMask = s.answerAndMask)

theorem AnsweredByRule.of_whole {i : Instr} {run : State → Answer} {act : State → Reply}
    (he : ∀ s, run s = onRequest i s act) (hwhole : ∀ s, Reply.Whole s (act s)) : AnsweredByRule i run :=
  ⟨act, he, fun s => (hwhole s).refused, fun _ s => (hwhole s).kept⟩

/-- Every request but RESTART, which forms no response, is answered by its rule. -/
theorem exec_answeredByRule {i : Instr} {code : Byte} (h : requestCode i = some code) (hrestart : i ≠ .restart) :
    AnsweredByRule i (exec i) := by
  show AnsweredByRule i fun s => exec i s
  cases i with dsimp only [exec]
  | restart => exact absurd rfl hrestart
  | setEventMask mask =>
    exact ⟨_, fun _ => rfl, fun _ hne => absurd rfl hne, fun hmask => absurd rfl (hmask mask)⟩
  | nop => exact .of_whole (fun _ => rfl) fun _ => .accept rfl
  | identify | getClock | getAlignment | getTiming | getPool | getMeters =>
    exact .of_whole (fun _ => rfl) fun _ => .readOut _
  | ackEvents | listLimited | getZoneMeters | getCueStatus =>
    exact .of_whole (fun _ => rfl) fun _ => .ok _ rfl
  | getCause => exact .of_whole (fun _ => rfl) fun s => .ok _ s.answerAndMask_afterCause
  | standby => exact .of_whole (fun _ => rfl) fun s => .accept s.answerAndMask_beginStandby
  | wake => exact .of_whole (fun _ => rfl) fun s => .accept s.answerAndMask_wake
  | setTemperature => exact .of_whole (fun _ => rfl) fun s => .accept (answerAndMask_reportTemperature s _)
  | getZone | getArea | findAtStation | getSource =>
    refine .of_whole (fun _ => rfl) fun s => ?_
    split
    · exact .readOut _
    · exact .refuse _
  | listNotches source =>
    refine .of_whole (fun _ => rfl) fun s => ?_
    dsimp only
    split
    · exact .readOut _
    · exact .refuse _
  | getStation | getPlacement | getFeed =>
    refine .of_whole (fun _ => rfl) fun s => ?_
    split
    · split
      · exact .readOut _
      · exact .refuse _
    · exact .refuse _
  | setClock | clearDynamic | setCue =>
    refine .of_whole (fun _ => rfl) fun s => ?_
    split
    · exact .accept rfl
    · exact .refuse _
  | editNotch | retireNotch =>
    refine .of_whole (fun _ => rfl) fun s => ?_
    split
    · split
      · exact .accept rfl
      · exact .refuse _
    · exact .refuse _
  | clearStation station =>
    refine .of_whole (fun _ => rfl) fun s => ?_
    split
    · split
      · exact .refuse _
      · split
        · exact .accept rfl
        · exact .accept rfl
    · exact .refuse _
  | addNotch source band depth =>
    refine .of_whole (fun _ => rfl) fun s => ?_
    split
    · split
      · exact .refuse _
      · split
        · exact .refuse _
        · exact .accept (s.answerAndMask_placeNotch _ _)
    · exact .refuse _
  | setTiming payload =>
    refine .of_whole (fun _ => rfl) fun s => ?_
    split
    · exact .accept (answerAndMask_setTimingOp s _)
    · exact .refuse _
  | setSource payload =>
    refine .of_whole (fun _ => rfl) fun s => ?_
    split
    · exact .accept (answerAndMask_setSourceOp s _ _)
    · exact .refuse _
  | setStation station position reach =>
    refine .of_whole (fun _ => rfl) fun s => ?_
    split
    · exact setStationOp_whole s _ _ _
    · exact .refuse _
  | setZone payload =>
    refine .of_whole (fun _ => rfl) fun s => ?_
    split
    · exact setZoneOp_whole s _ _
    · exact .refuse _
  | setArea area mode service =>
    refine .of_whole (fun _ => rfl) fun s => ?_
    split
    · split
      · exact .refuse _
      · exact setAreaOp_whole s _ _
    · exact .refuse _
  | place source station service level =>
    refine .of_whole (fun _ => rfl) fun s => ?_
    split
    · exact placeOp_whole s _ _ _ _
    · exact .refuse _
  | move source station =>
    refine .of_whole (fun _ => rfl) fun s => ?_
    split
    · exact moveOp_whole s _ _
    · exact .refuse _
  | setLevel source level =>
    refine .of_whole (fun _ => rfl) fun s => ?_
    split
    · exact setLevelOp_whole s _ _
    · exact .refuse _
  | retire source =>
    refine .of_whole (fun _ => rfl) fun s => ?_
    split
    · exact retireOp_whole s _
    · exact .refuse _
  | setGateMode source mode =>
    refine .of_whole (fun _ => rfl) fun s => ?_
    split
    · exact setGateModeOp_whole s _ _
    · exact .refuse _
  | _ => cases h

variable {s}

/-- Settles O7: the rule that owns a request refuses it whole, and the response is all that is formed of it (R152). -/
theorem refusalChangesNothing : Obligations.RefusalChangesNothing := by
  unfold Obligations.RefusalChangesNothing
  intro i code s t hcode hrestart htakes ht hne
  obtain ⟨act, hexec, hrefused, -⟩ := exec_answeredByRule hcode hrestart
  rw [hexec, onRequest_taken hcode act htakes] at ht
  cases ht
  rw [hrefused s hne]
  rfl

/-- A request that is not taken ends its transaction, RESTART among them (R151, R167). -/
theorem exec_request_ended {i : Instr} {code : Byte} (hcode : requestCode i = some code) (h : s.takesRequest = false) :
    exec i s = .next s.endTransaction := by
  by_cases hrestart : i = .restart
  · subst hrestart
    simp [exec, execRestart, h]
  · obtain ⟨act, hexec, -⟩ := exec_answeredByRule hcode hrestart
    rw [hexec, onRequest_ended i act h]

/-- A frame that fails a check leaves among the bytes kept of it one that fails a check (R148, R149). -/
theorem frameProblem_kept {received : List Byte}
    (h : received.length < 2 ∨ ∃ (code n : Byte) (payload : List Byte), received = code :: n :: payload ∧
      (requestLength code.toNat = none ∨
        ∃ len, requestLength code.toNat = some len ∧ (n.toNat ≠ len ∨ payload.length < len))) :
    ∃ problem, frameProblem (received.take 50) = some problem := by
  rcases h with hlength | ⟨code, n, payload, rfl, hnone | ⟨len, hlen, hfails⟩⟩
  · exact ⟨_, frameProblem_of_no_length ((List.length_take_le' 50 received).trans_lt hlength)⟩
  · exact ⟨_, frameProblem_of_no_request hnone⟩
  · by_cases hn : n.toNat = len
    · have hcut : payload.length < len := hfails.resolve_left (not_not_intro hn)
      exact ⟨_, frameProblem_of_cut_payload hlen hn ((List.length_take_le' 48 payload).trans_lt hcut)⟩
    · exact ⟨_, frameProblem_of_wrong_length hlen hn⟩

/-- Settles O6: without a request taken, a request or a discarded frame ends its transaction and nothing more (R151, R167). -/
theorem noRequestInARestart : Obligations.NoRequestInARestart := by
  unfold Obligations.NoRequestInARestart
  refine ⟨fun i code s hcode h => exec_request_ended hcode h, fun received s h => ⟨fun hfails => ?_, ?_⟩⟩
  · obtain ⟨problem, hproblem⟩ := frameProblem_kept hfails
    exact exec_frameRejected_ended h hproblem
  · cases hproblem : frameProblem (received.take 50) with
    | none => exact ⟨s, exec_frameRejected_still hproblem, rfl⟩
    | some problem => exact ⟨s.endTransaction, exec_frameRejected_ended h hproblem, rfl⟩

/-! ### The event mask -/

/-- The clearing of a warm restart keeps the mask (R160, R167). -/
theorem State.mask_clear (s : State) (cause : RestartCause) (pins : Byte) :
    (s.clear cause pins).link.mask = s.link.mask := by
  have hdrives := State.answerAndMask_foldl_takeUpDrive ((s.cleared cause pins).reconcileMany fun _ => true) allSources
  have hfeeds := (s.cleared cause pins).answerAndMask_reconcileMany fun _ => true
  have hkept := hdrives.trans hfeeds
  unfold State.clear
  dsimp only
  generalize allSources.foldl State.takeUpDrive ((s.cleared cause pins).reconcileMany fun _ => true) = t at hkept ⊢
  exact congrArg Prod.snd hkept

/-- Every command but SET_EVENT_MASK and power-on reset leaves the event mask (R156, R160). -/
theorem exec_mask {i : Instr} (hmask : ∀ mask, i ≠ .setEventMask mask) (hreset : ∀ pins, i ≠ .powerOnReset pins) :
    Leaves (fun t => t.link.mask = s.link.mask) (exec i s) := by
  cases hcode : requestCode i with
  | some code =>
    cases htakes : s.takesRequest with
    | false =>
      rw [exec_request_ended hcode htakes]
      exact leaves_next.mpr rfl
    | true =>
      by_cases hrestart : i = .restart
      · subst hrestart
        simp only [exec, execRestart, htakes]
        exact leaves_next.mpr rfl
      · obtain ⟨act, hexec, -, hkept⟩ := exec_answeredByRule hcode hrestart
        rw [hexec, onRequest_taken hcode act htakes]
        exact leaves_next.mpr (congrArg Prod.snd (hkept hmask s))
  | none =>
    by_cases hrejected : ∃ received, i = .frameRejected received
    · obtain ⟨received, rfl⟩ := hrejected
      cases hproblem : frameProblem (received.take 50) with
      | none =>
        rw [exec_frameRejected_still hproblem]
        exact leaves_next.mpr rfl
      | some problem =>
        cases htakes : s.takesRequest with
        | false =>
          rw [exec_frameRejected_ended htakes hproblem]
          exact leaves_next.mpr rfl
        | true =>
          have htaken : exec (.frameRejected received) s = _ := execFrameRejected_taken hproblem htakes
          rw [htaken]
          exact leaves_next.mpr rfl
    · by_cases hclearing : ∃ pins, i = .clearing pins
      · obtain ⟨pins, rfl⟩ := hclearing
        refine leaves_next.mpr ?_
        split
        · split
          · exact s.mask_clear _ _
          · rfl
        · rfl
      · exact fun t ht => congrArg Prod.snd (exec_answerAndMask s hcode (fun r e => hrejected ⟨r, e⟩) hreset
          (fun p e => hclearing ⟨p, e⟩) t ht)

end Sys2Proof.Machine
end

section
/-! ## The event flags

A set of event flags is read flag by flag: the places of the flags in the order of priority are their bits (R154). -/

namespace Sys2Proof.Machine

/-! ### Flag sets -/

theorem flagIn_eq (flags : BitVec 7) (f : EventFlag) : flagIn flags f = flags.getLsbD f.index := by
  cases f with
  | clock | restarted | notchSaturated | limited | cueRefused | cue | settled => rfl

theorem EventFlag.index_lt (f : EventFlag) : f.index < 7 := by
  cases f with
  | clock | restarted | notchSaturated | limited | cueRefused | cue | settled => decide

/-- A flag stands in the order of priority at the place of its bit (R154). -/
theorem EventFlag.byPriority_index (f : EventFlag) : EventFlag.byPriority[f.index]'f.index_lt = f := by
  cases f with
  | clock | restarted | notchSaturated | limited | cueRefused | cue | settled => rfl

theorem EventFlag.index_byPriority {n : Nat} (h : n < 7) : (EventFlag.byPriority[n]'h).index = n := by
  interval_cases n <;> rfl

theorem EventFlag.index_inj {f g : EventFlag} : f.index = g.index ↔ f = g :=
  ⟨fun h => f.byPriority_index.symm.trans ((getElem_congr_idx h).trans g.byPriority_index), congrArg _⟩

theorem EventFlag.mem_byPriority (f : EventFlag) : f ∈ EventFlag.byPriority :=
  List.mem_of_getElem f.byPriority_index

theorem flagIn_and (a b : BitVec 7) (f : EventFlag) : flagIn (a &&& b) f = (flagIn a f && flagIn b f) := by
  rw [flagIn_eq, flagIn_eq, flagIn_eq, BitVec.getLsbD_and]

theorem flagIn_and_not_bit (a : BitVec 7) (f g : EventFlag) :
    flagIn (a &&& ~~~f.bit) g = (flagIn a g && !decide (g = f)) := by
  have hbit : f.bit.getLsbD g.index = decide (g = f) := by
    rw [EventFlag.bit, BitVec.getLsbD_ofNat, Nat.testBit_two_pow]
    simp [g.index_lt, EventFlag.index_inj, eq_comm]
  rw [flagIn_eq, BitVec.getLsbD_and, BitVec.getLsbD_not, hbit, flagIn_eq]
  simp [g.index_lt]

theorem flagIn_and_not (a b : BitVec 7) (f : EventFlag) : flagIn (a &&& ~~~b) f = (flagIn a f && !flagIn b f) := by
  rw [flagIn_and, flagIn_eq (~~~b), BitVec.getLsbD_not, flagIn_eq b]
  simp [f.index_lt]

/-- A flag set is empty when no flag is in it. -/
theorem flags_eq_zero_iff {flags : BitVec 7} : flags = 0 ↔ ∀ f, flagIn flags f = false := by
  refine ⟨fun h f => by rw [h, flagIn_eq]; exact BitVec.getLsbD_zero, fun h => BitVec.eq_of_getLsbD_eq fun n hn => ?_⟩
  have hflag := h (EventFlag.byPriority[n]'hn)
  rw [flagIn_eq, EventFlag.index_byPriority hn] at hflag
  rw [hflag]
  exact BitVec.getLsbD_zero.symm

/-- Attention is asserted while a set flag is enabled (R156). -/
theorem State.attention_iff (s : State) :
    s.attention = true ↔ ∃ f, flagIn s.link.flags f = true ∧ flagIn s.link.mask f = true := by
  rw [State.attention, bne_iff_ne, Ne, flags_eq_zero_iff]
  simp [flagIn_and]

/-! ### GET_CAUSE -/

section
variable {s : State}

theorem State.cause_eq_none (h : s.link.flags &&& s.link.mask = 0) : s.cause = none := by
  rw [State.cause, h]
  exact List.find?_eq_none.mpr fun f _ => by simp

/-- The cause is the set and enabled flag of highest priority (R157). -/
theorem State.cause_eq_some {f : EventFlag} (hf : flagIn (s.link.flags &&& s.link.mask) f = true)
    (hfirst : ∀ g, flagIn (s.link.flags &&& s.link.mask) g = true → f.index ≤ g.index) : s.cause = some f := by
  rw [flagIn_eq] at hf
  refine List.find?_eq_some_iff_getElem.mpr ⟨hf, f.index, f.index_lt, f.byPriority_index, fun n hn => ?_⟩
  have hplace := EventFlag.index_byPriority (hn.trans f.index_lt)
  have hlow := mt (hfirst (EventFlag.byPriority[n]'(hn.trans f.index_lt))) (by omega)
  rw [flagIn_eq, Bool.not_eq_true] at hlow
  exact congrArg (!·) hlow

theorem ClockState.code_byte (st : ClockState) : byteOf st.code = match st with
    | .internal => 0
    | .lockedExternal => 1
    | .awaitingExternal => 2 := by
  cases st with
  | internal | lockedExternal | awaitingExternal => rfl

theorem RestartCause.code_byte (c : RestartCause) : byteOf c.code = match c with
    | .powerOn => 0
    | .resetPin => 1
    | .restartRequest => 2 := by
  cases c with
  | powerOn | resetPin | restartRequest => rfl

theorem State.limitedCount_eq (s : State) :
    s.limitedCount = allFeeds.countP fun k => (s.feed k).any fun f => f.limited := by
  refine congrArg (List.countP · allFeeds) (funext fun k => ?_)
  cases s.feed k with
  | none | some => rfl

/-- What GET_CAUSE leaves of the flags: the cause is cleared where it is RESTARTED or SETTLED (R157). -/
theorem State.afterCause_eq {f : EventFlag} (h : s.cause = some f) : ∃ flags,
    s.afterCause = { s with link := { s.link with flags := flags } } ∧
    ∀ g, flagIn flags g =
      (flagIn s.link.flags g && !(decide (g = f) && (decide (f = .restarted) || decide (f = .settled)))) := by
  unfold State.afterCause
  rw [h]
  cases f with
  | restarted | settled => exact ⟨_, rfl, fun g => by rw [flagIn_and_not_bit]; simp⟩
  | clock | notchSaturated | limited | cueRefused | cue => exact ⟨_, rfl, fun g => by simp⟩

/-- GET_CAUSE with a set flag enabled (R157). -/
theorem execGetCause_of_cause (htakes : s.takesRequest = true) {f : EventFlag} (h : s.cause = some f) : execGetCause s =
    .next (s.afterCause.respond .ok 0x02 [byteOf (f.index + 1), s.causeDetail f, flagSetByte s.link.flags]) := by
  refine onRequest_answers rfl htakes ?_
  rw [State.causeBytes, h]
  rfl

/-- GET_CAUSE with no set flag enabled (R157). -/
theorem execGetCause_of_none (htakes : s.takesRequest = true) (h : s.cause = none) :
    execGetCause s = .next (s.respond .ok 0x02 [0, 0, flagSetByte s.link.flags]) := by
  refine onRequest_answers rfl htakes ?_
  rw [State.causeBytes, State.afterCause, h]
  rfl

end

/-! ### ACK_EVENTS -/

/-- Flags taken out of a set where a condition holds of them. -/
theorem flagIn_foldl_except (held : EventFlag → Bool) (l : List EventFlag) (named : BitVec 7) (f : EventFlag) :
    flagIn (l.foldl (fun acc g => if held g then acc &&& ~~~g.bit else acc) named) f =
      (flagIn named f && !(decide (f ∈ l) && held f)) := by
  induction l generalizing named with
  | nil => simp
  | cons g rest ih =>
    rw [List.foldl_cons, ih]
    by_cases hg : held g = true
    · rw [if_pos hg, flagIn_and_not_bit]
      by_cases hfg : f = g
      · subst hfg
        simp [hg]
      · simp [hfg]
    · rw [if_neg hg]
      by_cases hfg : f = g
      · subst hfg
        simp [hg]
      · simp [hfg]

/-- A named flag is cleared unless a live condition holds it (R155, R158). -/
theorem State.flagIn_acknowledged (s : State) (named : BitVec 7) (f : EventFlag) :
    flagIn (s.acknowledged named) f = (flagIn s.link.flags f && !(flagIn named f && !s.heldFlag f)) := by
  rw [State.acknowledged, flagIn_and_not, State.clearable, flagIn_foldl_except]
  simp [f.mem_byPriority]

/-- The live conditions that hold a flag: CLOCK in AWAITING_EXTERNAL, NOTCH_SATURATED while a source is saturated (R155). -/
theorem State.heldFlag_eq (s : State) (f : EventFlag) : s.heldFlag f =
    ((decide (f = .clock) && decide (s.clock.state = .awaitingExternal)) ||
      (decide (f = .notchSaturated) && allSources.any s.saturated)) := by
  cases f with
  | clock => simp [State.heldFlag, Bool.beq_eq_decide_eq]
  | notchSaturated | restarted | limited | cueRefused | cue | settled => simp [State.heldFlag]

theorem execAckEvents_taken {s : State} (htakes : s.takesRequest = true) (named : Byte) : execAckEvents named s =
    .next ({ s with link := { s.link with flags := s.acknowledged (asFlagSet named) } }.respond .ok 0x03
      [flagSetByte (s.acknowledged (asFlagSet named))]) := onRequest_answers rfl htakes rfl

/-- Settles O14: the cause is the first of the set and enabled flags, and what ACK_EVENTS clears is said flag by flag. -/
theorem causeAndAcknowledge : Obligations.CauseAndAcknowledge := by
  unfold Obligations.CauseAndAcknowledge
  refine ⟨fun s htakes => ⟨fun hnone => ?none, fun f hf hfirst => ?cause⟩,
    fun s named htakes => ⟨s.acknowledged (asFlagSet named), execAckEvents_taken htakes named, fun f => ?left⟩⟩
  case none => exact execGetCause_of_none htakes (State.cause_eq_none hnone)
  case cause =>
    have hcause := State.cause_eq_some hf hfirst
    intro detail
    have hdetail : s.causeDetail f = detail := by
      cases f with
      | clock => exact ClockState.code_byte s.clock.state
      | restarted => exact RestartCause.code_byte s.link.restartCause
      | limited => exact congrArg byteOf s.limitedCount_eq
      | notchSaturated | cueRefused | cue | settled => rfl
    obtain ⟨flags, hafter, hflags⟩ := State.afterCause_eq hcause
    have hexec : exec .getCause s = _ := execGetCause_of_cause htakes hcause
    refine ⟨s.afterCause, hdetail ▸ hexec, ?_, fun g => ?_⟩
    · rw [hafter]
    · rw [hafter]
      exact hflags g
  case left =>
    rw [State.flagIn_acknowledged, State.heldFlag_eq]
    rfl

/-- SET_EVENT_MASK (R156). -/
theorem execSetEventMask_taken {s : State} (htakes : s.takesRequest = true) (mask : Byte) : execSetEventMask mask s =
    .next ({ s with link := { s.link with mask := mask.setWidth 7 } }.respond .ok 0x04 []) :=
  onRequest_answers rfl htakes rfl

/-- Settles O15: the mask is written by SET_EVENT_MASK and power-on reset alone (R156, R160). -/
theorem maskAndAttention : Obligations.MaskAndAttention := by
  unfold Obligations.MaskAndAttention
  exact ⟨⟨fun s mask htakes => execSetEventMask_taken htakes mask, State.attention_iff⟩,
    fun i s t hmask hreset ht => exec_mask hmask hreset t ht⟩

end Sys2Proof.Machine
end

section
/-! ## STANDBY, WAKE and the completion of standby entry -/

namespace Sys2Proof.Machine

section
variable {s : State}

/-! ### STANDBY and WAKE -/

theorem exec_standby (h : s.takesRequest = true) : exec .standby s = .next (s.beginStandby.respond .ok 0x05 []) := by
  show execStandby s = _
  exact onRequest_answers rfl h rfl

theorem exec_wake (h : s.takesRequest = true) : exec .wake s = .next (s.wake.respond .ok 0x06 []) := by
  show execWake s = _
  exact onRequest_answers rfl h rfl

/-- STANDBY begins an entry from ACTIVE (R162). -/
theorem State.beginStandby_active (hs : s.service.state = .active) : s.beginStandby =
    s.setService .enteringStandby (Ramp.start s.service.ramp.value (-stepOver s.timing.fadeTime)) := if_pos hs

theorem State.beginStandby_still (hs : s.service.state ≠ .active) : s.beginStandby = s := if_neg hs

theorem State.wake_active (hs : s.service.state = .active) : s.wake = s := by simp [State.wake, hs]

/-- The part in ACTIVE with its service ramp rising from the value it holds (R165). -/
def State.rising (s : State) : State :=
  s.setService .active (Ramp.start s.service.ramp.value (stepOver s.timing.fadeTime))

/-- WAKE cancels an entry (R165). -/
theorem State.wake_entering (hs : s.service.state = .enteringStandby) : s.wake = s.rising := by
  simp [State.wake, hs, State.rising]

/-- WAKE ends standby, with every gate in the course of its drive (R165). -/
theorem State.wake_standby (hs : s.service.state = .standby) :
    s.wake = s.closeEvent (allSources.foldl State.takeUpDrive s.rising) := by simp [State.wake, hs, State.rising]

/-- Out of STANDBY a gate's drive follows the placement and the mode of its source (R86). -/
theorem State.drivenGate_outOfStandby (hs : s.service.state ≠ .standby) (src : Source) : s.drivenGate src =
    if s.isPlaced src then (vget s.sources src).driven (s.gate src)
    else (vget s.sources src).forcedShut (s.gate src) := by rw [State.drivenGate_eq, if_neg hs]

end

/-- The end of an event that left `base` but for every gate taken into the course of its drive (R86, R99). -/
theorem closeEvent_foldl_takeUpDrive (before base : State) : ∃ t,
    before.closeEvent (allSources.foldl State.takeUpDrive base) = t ∧
    FeedsBecome before { base with channels := t.channels, detectors := t.detectors } base.feed t ∧
    ∀ src, vget t.channels src = { vget base.channels src with gate := base.drivenGate src } ∧
      vget t.detectors src = detectorAfter (base.drivenGate src) (vget base.detectors src) := by
  obtain ⟨C, D, hdriven, hall⟩ := base.foldl_takeUpDrive
  have hclose : FeedsBecome before { base with channels := C, detectors := D } base.feed
      (before.closeEvent { base with channels := C, detectors := D }) := closeEvent_feedsBecome_of rfl rfl
  rw [hdriven]
  generalize before.closeEvent { base with channels := C, detectors := D } = t at hclose
  have hchannels : t.channels = C := by rw [hclose.1]
  have hdetectors : t.detectors = D := by rw [hclose.1]
  rw [← hchannels, ← hdetectors] at hclose hall
  exact ⟨t, rfl, hclose, hall⟩

/-- Settles O45: each request by the service state it finds; a WAKE from STANDBY drives every gate (R161, R162, R165). -/
theorem standbyAndWake : Obligations.StandbyAndWake := by
  unfold Obligations.StandbyAndWake
  refine fun s h => ⟨fun hs => ⟨?standby, ?awake⟩, fun hs => ?noStandby, fun hs => ?cancels, fun hs => ?wakes⟩
  case standby =>
    rw [exec_standby h, State.beginStandby_active hs]
    rfl
  case awake => rw [exec_wake h, State.wake_active hs]
  case noStandby => rw [exec_standby h, State.beginStandby_still hs]
  case cancels =>
    rw [exec_wake h, State.wake_entering hs]
    rfl
  case wakes =>
    obtain ⟨t, ht, hbecome, hall⟩ := closeEvent_foldl_takeUpDrive s s.rising
    refine ⟨t.respond .ok 0x06 [], ?_, hbecome.respond _ _ _, fun src => ?_⟩
    · rw [exec_wake h, State.wake_standby hs, ht]
    · obtain ⟨hchannel, hdetector⟩ := hall src
      rw [State.drivenGate_outOfStandby (s := s.rising) nofun] at hchannel hdetector
      exact ⟨hchannel, hdetector⟩

/-! ### RETIRING placements left empty -/

/-- A RETIRING placement that holds no feed (R36). -/
def State.leftEmpty (s : State) (src : Source) : Bool :=
  (s.placement src).any (fun p => p.state == .retiring) && !s.hasFeeds src

section
variable (s : State)

theorem State.leftEmpty_iff (src : Source) :
    s.leftEmpty src = true ↔ s.IsRetiring src ∧ s.hasFeeds src = false := by
  simp [State.leftEmpty, State.IsRetiring, Option.any_eq_true]

/-- A placement written says nothing of another being left empty. -/
theorem State.leftEmpty_setPlacement_other {a x : Source} (h : x ≠ a) (p : Option Placement) :
    (s.setPlacement a p).leftEmpty x = s.leftEmpty x := by
  rw [State.leftEmpty, State.placement_setPlacement, if_neg (Ne.symm h)]
  rfl

theorem State.removeIfEmpty_eq (src : Source) :
    s.removeIfEmpty src = if s.leftEmpty src then s.setPlacement src none else s := by
  rcases s.removeIfEmpty_cases src with ⟨e, hheld⟩ | ⟨e, hempty⟩
  · have hkept : ¬ s.leftEmpty src = true := fun h => by
      obtain ⟨hr, hnone⟩ := (s.leftEmpty_iff src).mp h
      exact Bool.false_ne_true (hnone.symm.trans (hheld hr))
    rw [e, if_neg hkept]
  · rw [e, if_pos ((s.leftEmpty_iff src).mpr hempty)]

/-- The removals over a list of sources touch the placements of its sources that are left empty (R36, R163). -/
theorem State.foldl_removeIfEmpty (l : List Source) : ∃ P, l.foldl State.removeIfEmpty s = { s with placements := P } ∧
    ∀ x, vget P x = if x ∈ l ∧ s.leftEmpty x then none else s.placement x := by
  induction l generalizing s with
  | nil => exact ⟨s.placements, rfl, by simp [State.placement]⟩
  | cons a rest ih =>
    obtain ⟨P, hP, hall⟩ := ih (s.removeIfEmpty a)
    refine ⟨P, ?_, fun x => ?_⟩
    · rw [List.foldl_cons, hP, State.removeIfEmpty_eq]
      split <;> rfl
    · rw [hall, State.removeIfEmpty_eq]
      by_cases ha : s.leftEmpty a = true
      · rw [if_pos ha]
        by_cases hx : x = a
        · subst hx
          simp [ha]
        · rw [State.leftEmpty_setPlacement_other s hx, State.placement_setPlacement, if_neg (Ne.symm hx)]
          simp [hx]
      · rw [if_neg ha]
        by_cases hx : x = a
        · subst hx
          simp [ha]
        · simp [hx]

end

/-! ### The completion of standby entry -/

section
variable {s : State}

theorem State.endEntry_due (hs : s.service.state = .enteringStandby) (hr : s.service.restart = none)
    (hdue : s.service.ramp.due = true) :
    s.endEntry = s.closeEvent (allSources.foldl State.removeIfEmpty s.entered) := if_pos ⟨hs, hr, hdue⟩

/-- The completion of standby entry leaves a RETIRING placement empty where it leaves it no feed (R36, R163). -/
theorem State.leftEmpty_entered (src : Source) : s.entered.leftEmpty src = true ↔
    (s.placement src).any (fun p => p.state == .retiring) = true ∧ ∀ z, s.entered.feed (src, z) = none := by
  have hempty : s.entered.hasFeeds src = false ↔ ∀ z, s.entered.feed (src, z) = none := by
    simp [State.hasFeeds, State.inUse]
  rw [State.leftEmpty, Bool.and_eq_true, Bool.not_eq_true', hempty]
  rfl

end

/-- Settles O46: the entry's end is its records set at once, and the removal of the placements it leaves empty (R36,
R163). -/
theorem entryCompletes : Obligations.EntryCompletes := by
  unfold Obligations.EntryCompletes
  refine fun s hs hr => ⟨fun hdue => congrArg Host.Outcome.next (State.endEntry_still hdue),
    fun hdue => ⟨_, congrArg Host.Outcome.next (State.endEntry_due hs hr hdue), ?_⟩⟩
  obtain ⟨P, hP, hall⟩ := s.entered.foldl_removeIfEmpty allSources
  have hfeed : s.entered.feed = _ := funext s.feed_entered
  rw [hP]
  refine closeEvent_feedsBecome_of ?_ hfeed
  have hplacements : P = vgen fun src =>
      if (s.placement src).any (fun p => p.state == .retiring) ∧ (∀ z, s.entered.feed (src, z) = none) then none
      else s.placement src := by
    refine vext fun src => ?_
    rw [hall, vget_vgen]
    exact if_congr ((and_iff_right (mem_allSources src)).trans (State.leftEmpty_entered src)) rfl rfl
  rw [hplacements, hfeed]
  rfl

end Sys2Proof.Machine
end

section
/-! ## Warm restart: the trigger and the clearing -/

namespace Sys2Proof.Machine

section
variable {s : State}

/-! ### RESTART and the reset pin -/

theorem exec_restart (h : s.takesRequest = true) :
    exec .restart s = .next (s.endTransaction.trigger .restartRequest) := by
  show execRestart s = _
  rw [execRestart, if_pos h]

/-- The fall of the pin outside a warm restart triggers one (R167). -/
theorem exec_resetPin_triggers (hr : s.service.restart = none) (hpin : s.service.resetPinLow = false) :
    exec .resetPin s =
      .next (({ s with service := { s.service with resetPinLow := true } } : State).trigger .resetPin) := by
  simp [exec, execResetPin, hr, hpin]

/-- The fall of the pin in a warm restart only lengthens it (R167). -/
theorem exec_resetPin_lengthens (hr : s.service.restart ≠ none) (hpin : s.service.resetPinLow = false) :
    exec .resetPin s = .next { s with service := { s.service with resetPinLow := true } } := by
  simp [exec, execResetPin, hr, hpin]

/-- A low pin is released (R167; log 21). -/
theorem exec_resetPin_released (hpin : s.service.resetPinLow = true) :
    exec .resetPin s = .next { s with service := { s.service with resetPinLow := false } } := by
  simp [exec, execResetPin, hpin]

end

/-- Settles O47: RESTART and the fall of the pin outside a restart trigger; every other change of the pin is its level
alone (R151, R167). -/
theorem restartTriggered : Obligations.RestartTriggered := by
  unfold Obligations.RestartTriggered
  exact fun s => ⟨exec_restart, exec_resetPin_triggers, exec_resetPin_lengthens, exec_resetPin_released⟩

/-! ### When the clearing comes -/

section
variable {s : State}

theorem ServiceControl.quietOver_iff (c : ServiceControl) :
    c.quietOver = true ↔ c.ramp.shown = 0 ∧ c.resetPinLow = false := by simp [ServiceControl.quietOver]

theorem Ramp.shown_due {r : Ramp} (h : r.due = true) : r.shown = r.goal := if_pos h

theorem Ramp.shown_moving {r : Ramp} (h : r.due = false) : r.shown = r.value := by simp [Ramp.shown, h]

/-- Before the end of the quiet phase, and outside a warm restart, there is no clearing (R167). -/
theorem exec_clearing_still (pins : Byte) (h : s.service.restart = none ∨ s.service.quietOver = false) :
    exec (.clearing pins) s = .next s := by
  show execClearing pins s = _
  unfold execClearing
  rcases h with h | h
  · simp [h]
  · cases s.service.restart <;> simp [h]

theorem exec_clearing_clears (pins : Byte) {cause : RestartCause} (hr : s.service.restart = some cause)
    (h : s.service.quietOver = true) : exec (.clearing pins) s = .next (s.clear cause pins) := by
  show execClearing pins s = _
  simp [execClearing, hr, h]

end

/-! ### What the rebuild leaves -/

/-- The feeds that a rebuild allocates: one WAITING for each wanted zone (R44). -/
def State.rebuiltFeeds (s : State) : Vector (Vector (Option Feed) 24) 16 :=
  vgen fun src => vgen fun z => if s.wants (src, z) then some Feed.fresh else none

/-- The queue of a rebuild: every wanted feed, by source and then by zone (R44). -/
def State.rebuiltQueue (s : State) : List FeedKey := allSources.flatMap fun src => zonesOf src fun z => s.wants (src, z)

section
variable {s : State}

theorem zonesOf_eq_nil (src : Source) {f : Zone → Bool} (h : ∀ z, f z = false) : zonesOf src f = [] := by
  simp [zonesOf, h]

theorem joinQueue_empty (offers : List FeedKey) : joinQueue [] offers = offers := by simp [joinQueue]

/-- A choice of sources adds nothing where the others give nothing. -/
theorem flatMap_filter_of_nil {α β : Type} (l : List α) (p : α → Bool) {f : α → List β}
    (h : ∀ a, p a = false → f a = []) : (l.filter p).flatMap f = l.flatMap f := by
  induction l with
  | nil => rfl
  | cons a l ih => cases hp : p a <;> simp [hp, ih, h]

/-- Reconciling a pool with no feed in use and none queued is a rebuild (R26, R44). -/
theorem State.reconcileMany_of_empty (hq : s.queue = []) (hf : ∀ k, s.feed k = none) :
    s.reconcileMany (fun _ => true) = { s with feeds := s.rebuiltFeeds, queue := s.rebuiltQueue } := by
  obtain ⟨⟨F, hF⟩, hall⟩ := s.reconcileMany_spec (fun _ => true) (fun k hk => by simp [hq] at hk)
  have hunplaced {k : FeedKey} (h : s.isPlaced k.1 = false) : s.wants k = false := by
    rw [Bool.eq_false_iff]
    exact fun hw => Bool.false_ne_true (h.symm.trans (s.placed_of_wants hw))
  have hfeeds : (s.reconcileMany fun _ => true).feeds = s.rebuiltFeeds := by
    refine vext fun src => vext fun z => ?_
    refine (hall (src, z)).trans ?_
    simp only [State.rebuiltFeeds, vget_vgen, State.activeAmong, Bool.true_and, List.contains_eq_mem, List.mem_filter,
      mem_allSources, true_and, State.reconciledFeed, hf, Feed.fresh]
    cases hp : s.isPlaced src
    · simp [hunplaced (k := (src, z)) hp]
    · cases s.wants (src, z) <;> rfl
  have hqueue : s.reconciledQueue (fun _ => true) = s.rebuiltQueue := by
    rw [State.reconciledQueue, hq, List.filter_nil, joinQueue_empty]
    exact flatMap_filter_of_nil _ _ fun src hp => zonesOf_eq_nil src fun z => hunplaced (k := (src, z)) hp
  rw [hF] at hfeeds
  rw [hF, hqueue, ← hfeeds]

/-- WAITING feeds have no gains to refresh (R58, R144). -/
theorem State.refreshGains_of_waiting (h : ∀ k f, s.feed k = some f → f.state = .waiting) : s.refreshGains = s := by
  have hfeeds : s.refreshGains.feeds = s.feeds := State.feeds_ext _ fun k => by
    rw [State.feed_refreshGains]
    cases hf : s.feed k with
    | none => rfl
    | some f => simp [Feed.smoothed, h k f hf]
  calc s.refreshGains = { s with feeds := s.refreshGains.feeds } := rfl
    _ = s := by rw [hfeeds]

/-- A rebuilt feed is WAITING (R44). -/
theorem State.waiting_of_rebuilt {t : State} (ht : t.feeds = s.rebuiltFeeds) {k : FeedKey} {f : Feed}
    (hf : t.feed k = some f) : f.state = .waiting := by
  simp only [State.feed, ht, State.rebuiltFeeds, vget_vgen] at hf
  split at hf
  · cases hf
    rfl
  · cases hf

end

/-! ### What the clearing leaves -/

section
variable (s : State) (cause : RestartCause) (pins : Byte)

/-- An ACTIVE placement is kept and a RETIRING one removed (R44). -/
theorem keptPlacement_eq (p : Option Placement) :
    keptPlacement p = p.bind fun q => if q.state = .active then some q else none := by
  cases p with
  | none => rfl
  | some q => cases hq : q.state <;> simp [keptPlacement, hq]

/-- A RETIRING placement feeds nothing, so its removal leaves what is wanted (R44). -/
theorem State.wants_cleared : (s.cleared cause pins).wants = s.wants := by
  funext k
  have hplacement : (s.cleared cause pins).placement k.1 = keptPlacement (s.placement k.1) := vget_vgen _ k.1
  unfold State.wants
  rw [hplacement]
  cases s.placement k.1 with
  | none => rfl
  | some p => cases hp : p.state <;> simp [keptPlacement_eq, hp, State.cleared]

theorem State.isPlaced_cleared (src : Source) : (s.cleared cause pins).isPlaced src = s.isPlaced src := by
  rw [Bool.eq_iff_iff, State.isPlaced_iff, State.isPlaced_iff]
  simp only [State.placement_cleared, and_assoc, and_self]

/-- ACTIVE rises from 0, and an entry in progress is taken as STANDBY (R167). -/
theorem serviceAfterClearing_eq (state : ServiceState) : serviceAfterClearing state =
    if state = .active then ⟨.active, ⟨0, 1 / 240, false⟩, none, false⟩ else ⟨.standby, ⟨0, 0, false⟩, none, false⟩ := by
  cases state <;> rfl

/-- From CLOSED, the drive of a FORCED_OPEN source alone moves a gate (R90, R91, R92). -/
theorem SourceRecord.driven_closed (r : SourceRecord) :
    r.driven .closed = if r.gateMode = .forcedOpen then r.opensFrom 0 else .closed := by
  unfold SourceRecord.driven
  cases r.gateMode <;> rfl

/-- The gate that the clearing leaves: it is opening where a FORCED_OPEN source is ACTIVE and the part is too (R86, R90,
R167). -/
def State.gateAfterClearing (s : State) (src : Source) : Gate :=
  if s.service.state = .active ∧ s.isPlaced src = true ∧ (vget s.sources src).gateMode = .forcedOpen
  then (vget s.sources src).opensFrom 0 else .closed

theorem State.drivenGate_cleared (src : Source) : (s.cleared cause pins).drivenGate src = s.gateAfterClearing src := by
  have hgate : (s.cleared cause pins).gate src = .closed := congrArg Channel.gate (vget_vgen _ src)
  have hservice : (s.cleared cause pins).service = _ := serviceAfterClearing_eq s.service.state
  have hsources : (s.cleared cause pins).sources = s.sources := rfl
  rw [State.drivenGate_eq, hgate, hservice, State.isPlaced_cleared, hsources, SourceRecord.driven_closed,
    State.gateAfterClearing]
  by_cases hs : s.service.state = .active
  · cases hp : s.isPlaced src <;> simp [hs, SourceRecord.forcedShut]
  · simp [hs]

theorem detectorAfter_idle (g : Gate) : detectorAfter g Detector.idle = Detector.idle := ite_self _

/-- The clearing is its records set afresh, the rebuilt feeds, and each gate in the course of its drive (R44, R167). -/
theorem State.clear_eq : s.clear cause pins = { s.cleared cause pins with
    feeds := s.rebuiltFeeds
    queue := s.rebuiltQueue
    channels := vgen fun src =>
      { (vget s.channels src).afresh (vget s.sources src) with gate := s.gateAfterClearing src } } := by
  have hrebuilt := State.reconcileMany_of_empty (s := s.cleared cause pins) rfl (s.feed_cleared cause pins)
  have hfeeds : (s.cleared cause pins).rebuiltFeeds = s.rebuiltFeeds := by
    rw [State.rebuiltFeeds, State.wants_cleared]
    rfl
  have hqueue : (s.cleared cause pins).rebuiltQueue = s.rebuiltQueue := by
    rw [State.rebuiltQueue, State.wants_cleared]
    rfl
  rw [hfeeds, hqueue] at hrebuilt
  obtain ⟨C, D, hdriven, hall⟩ := ((s.cleared cause pins).reconcileMany fun _ => true).foldl_takeUpDrive
  rw [hrebuilt] at hdriven hall
  have hchannels : C = vgen fun src =>
      { (vget s.channels src).afresh (vget s.sources src) with gate := s.gateAfterClearing src } := vext fun src => by
    have hafresh : vget (s.cleared cause pins).channels src = (vget s.channels src).afresh (vget s.sources src) :=
      vget_vgen _ src
    rw [(hall src).1, vget_vgen, ← hafresh, ← State.drivenGate_cleared s cause pins]
    rfl
  have hdetectors : D = (s.cleared cause pins).detectors := vext fun src => by
    have hidle : vget (s.cleared cause pins).detectors src = Detector.idle := vget_vgen _ src
    rw [(hall src).2, hidle, detectorAfter_idle]
  unfold State.clear
  dsimp only
  rw [hrebuilt, hdriven, hchannels, hdetectors]
  exact State.refreshGains_of_waiting fun k f => State.waiting_of_rebuilt (s := s) rfl

end

/-- Settles O48: the clearing comes at the end of the quiet phase alone, and leaves the records of R167 with the rebuilt
feeds and the driven gates (R44, R98, R116, R135, R145, R147, R160). -/
theorem clearingRebuilds : Obligations.ClearingRebuilds := by
  unfold Obligations.ClearingRebuilds
  refine ⟨fun s pins h => exec_clearing_still pins (h.imp_right fun hearly => ?early),
    fun s pins cause hr hpin hended => ?cleared⟩
  case early =>
    rw [Bool.eq_false_iff, ne_eq, ServiceControl.quietOver_iff]
    rintro ⟨hzero, hhigh⟩
    rcases hearly with hlow | ⟨hdue, hvalue⟩
    · exact Bool.false_ne_true (hhigh.symm.trans hlow)
    · exact hvalue ((Ramp.shown_moving hdue).symm.trans hzero)
  case cleared =>
    have hover : s.service.quietOver = true := by
      refine s.service.quietOver_iff.mpr ⟨?_, hpin⟩
      rcases hended with ⟨hdue, hfalling⟩ | ⟨hdue, hzero⟩
      · exact (Ramp.shown_due hdue).trans (Ramp.goal_of_falling hfalling)
      · exact (Ramp.shown_moving hdue).trans hzero
    rw [exec_clearing_clears pins hr hover, State.clear_eq]
    simp only [State.cleared, keptPlacement_eq, serviceAfterClearing_eq]
    rfl

end Sys2Proof.Machine
end

section
/-! ## The part after power-on reset meets every condition -/

namespace Sys2Proof.Machine

theorem State.feed_reset (k : FeedKey) : State.reset.feed k = none := by simp [State.feed, State.reset]

theorem State.placementsOk_reset : State.reset.PlacementsOk := by
  have hqueue : State.reset.QueueOk := State.queueOk_of_empty rfl State.feed_reset
  have hplaced : State.reset.PlacedBut noSource noSource := State.placedBut_of_none (vget_vgen _)
  have hused : State.reset.usedCount = 0 :=
    List.countP_eq_zero.mpr fun k _ => by simp [State.inUse, State.feed_reset]
  exact State.reset.placementsOk_iff.mpr ⟨hqueue, hplaced, hused.trans_le (Nat.zero_le _)⟩

/-- With no feed in use, the condition on the gains holds. -/
theorem State.gainsOk_of_none {s : State} (h : ∀ k, s.feed k = none) : s.GainsOk :=
  fun k f hf => by simp [h] at hf

/-- No notch and no section is in use (R103, R114). -/
theorem State.notchesOk_reset : State.reset.NotchesOk := State.notchesOk_iff.mpr fun src => by
  have hnotches : vget State.reset.notches src = [] := vget_vgen _ src
  have hsections : vget State.reset.sections src = vgen fun _ => none := vget_vgen _ src
  rw [hnotches, hsections]
  exact channelOk_empty _

theorem State.inRange_reset : State.reset.InRange := by
  have hcues : ∀ l, (vget State.reset.cues l).action.inRange :=
    forall_vget_vgen (P := fun c : CueLine => c.action.inRange) fun _ => trivial
  exact { reset_inRange 0 0 [] with cues := hcues }

/-- Settles O60: the reset part holds no feed, placement or notch, and its other records are at values in range and in
course (R43, R166). -/
theorem resetMeetsTheConditions : Obligations.ResetMeetsTheConditions := by
  unfold Obligations.ResetMeetsTheConditions
  obtain ⟨hranges, hhistories⟩ := State.reset.inRange_iff.mp State.inRange_reset
  obtain ⟨hclock, hservice⟩ := State.reset.inCourse_iff.mp State.reset_inCourse
  exact ⟨vget_vgen _ 0, State.placementsOk_reset.1, State.placementsOk_reset, State.gainsOk_of_none State.feed_reset,
    State.notchesOk_reset, hranges, hhistories, hclock, hservice⟩

end Sys2Proof.Machine
end

section
/-! ## The front of the queue, and the events that a frame takes -/

namespace Sys2Proof.Machine

/-- Settles O1: the queue is split as `step` splits it (log 1). -/
theorem stepTakesTheFront : Obligations.StepTakesTheFront := by
  unfold Obligations.StepTakesTheFront
  refine ⟨fun c rest s hfront => ?front, fun s hempty => ?idle⟩
  case front => simp only [step, hfront]
  case idle => simp only [step, hempty]

/-- The commands of a channel's ends run as the ends a frame takes of it (R84, R87, R89, R114; log 20). -/
theorem runCommands_channelEnds (s : State) (src : Source) (rest : List Instr) :
    runCommands (([.openingComplete src, .closingComplete src, .trimRampComplete src] ++
      allSlots.map (.sectionMovementComplete src)) ++ rest) s = runCommands rest (s.takeDueChannel src) :=
  runCommands_map (.sectionMovementComplete src) (fun t i => t.completeSection src i) (fun _ _ => rfl) allSlots
    ((s.completeOpening src).completeClosing src |>.completeTrim src) rest

/-- The commands of a feed's ends run as the ends a frame takes of it (R25, R67, R71, R144; log 20). -/
theorem runCommands_feedEnds (s : State) (k : FeedKey) (rest : List Instr) :
    runCommands ([.glideComplete k.1 k.2, .gainMovementComplete k.1 k.2, .fadeInComplete k.1 k.2,
      .fadeOutComplete k.1 k.2] ++ rest) s = runCommands rest (s.takeDueFeed k) := rfl

/-- The commands of the clock switch and of Service Control run as the ends a frame takes first (R139, R161, R163;
log 20). -/
theorem runCommands_switchAndServiceEnds (s : State) (rest : List Instr) :
    runCommands ([.switchChange, .switchComplete, .standbyEntryComplete, .serviceRampComplete] ++ rest) s =
      runCommands rest s.switchChange.switchComplete.endEntry.completeServiceRamp := rfl

/-- The commands of the counts run as the ends a frame takes last (R85, R100, R107; log 20). -/
theorem runCommands_countEnds (s : State) : runCommands [.blockEvaluation, .windowEnd, .agingAdvance] s =
    .next s.evaluateBlock.endWindow.advanceAging := rfl

/-- What a frame takes, as one chain of operations (log 20). -/
theorem State.takeDue_eq (s : State) : s.takeDue = (allZones.foldl State.completeMute (allFeeds.foldl State.takeDueFeed
    (allSources.foldl State.takeDueChannel
      s.switchChange.switchComplete.endEntry.completeServiceRamp))).evaluateBlock.endWindow.advanceAging := rfl

/-- The commands of every event that frames bring about run as what a frame takes before it runs (log 2, log 20). -/
theorem runCommands_dueCommands (s : State) : runCommands dueCommands s = .next s.takeDue := by
  have hmutes (t : State) (rest : List Instr) : runCommands (allZones.map .muteRampComplete ++ rest) t =
      runCommands rest (allZones.foldl State.completeMute t) :=
    runCommands_map .muteRampComplete State.completeMute (fun _ _ => rfl) allZones t rest
  rw [State.takeDue_eq]
  simp only [dueCommands, List.append_assoc]
  rw [runCommands_switchAndServiceEnds, runCommands_flatMap _ State.takeDueChannel runCommands_channelEnds,
    runCommands_flatMap _ State.takeDueFeed runCommands_feedEnds, hmutes, runCommands_countEnds]

/-- Settles O50: the commands run as `takeDue`, which changes nothing where nothing is due (log 2, log 20). -/
theorem dueEventsTaken : Obligations.DueEventsTaken := by
  unfold Obligations.DueEventsTaken
  exact fun s => ⟨runCommands_dueCommands s, State.takeDue_still⟩

end Sys2Proof.Machine
end

section
/-! ## Every command runs, and leaves the waiting commands

`exec` answers a next state for every command; what remains is that no operation of the part touches the queue of the
commands that wait. Each operation is said once to leave it. -/

namespace Sys2Proof.Machine

variable (s : State)

/-- A fold whose every step leaves the waiting commands leaves them. -/
theorem foldl_pending {α : Type} {op : State → α → State} (h : ∀ t x, (op t x).pending = t.pending) (l : List α) :
    (l.foldl op s).pending = s.pending :=
  List.foldlRecOn l op (motive := fun t => t.pending = s.pending) rfl fun t ht x _ => (h t x).trans ht

/-! ### Feeds, placements and gates -/

@[simp] theorem State.offer_pending (k : FeedKey) : (s.offer k).pending = s.pending := by
  rw [State.offer_eq]

@[simp] theorem State.offerAll_pending (keys : List FeedKey) : (s.offerAll keys).pending = s.pending :=
  foldl_pending s State.offer_pending _

@[simp] theorem State.closeEvent_pending (before : State) : (before.closeEvent s).pending = s.pending := by
  rw [State.closeEvent_eq]

@[simp] theorem State.setGate_pending (src : Source) (g : Gate) : (s.setGate src g).pending = s.pending := by
  rw [State.setGate_eq]

@[simp] theorem State.takeUpDrive_pending (src : Source) : (s.takeUpDrive src).pending = s.pending :=
  s.setGate_pending src _

@[simp] theorem State.foldl_takeUpDrive_pending (l : List Source) :
    (l.foldl State.takeUpDrive s).pending = s.pending := foldl_pending s State.takeUpDrive_pending l

@[simp] theorem State.removeIfEmpty_pending (src : Source) : (s.removeIfEmpty src).pending = s.pending := by
  rw [State.removeIfEmpty_eq]
  split <;> rfl

@[simp] theorem State.drop_pending (k : FeedKey) : (s.drop k).pending = s.pending := by
  unfold State.drop
  split
  · rfl
  · split
    · rfl
    · rfl
    · split <;> rfl

@[simp] theorem State.reconcileZone_pending (src : Source) (p : Placement) (z : Zone) :
    (s.reconcileZone src p z).pending = s.pending := by
  unfold State.reconcileZone
  split
  · exact State.offer_pending _ _
  · split
    · exact State.offer_pending _ _
    · exact State.offer_pending _ _
  · exact s.drop_pending _

@[simp] theorem State.reconcile_pending (src : Source) : (s.reconcile src).pending = s.pending := by
  unfold State.reconcile
  split
  · split
    · exact foldl_pending s (fun t z => t.reconcileZone_pending src _ z) _
    · rfl
  · rfl

@[simp] theorem State.reconcileMany_pending (chosen : Source → Bool) :
    (s.reconcileMany chosen).pending = s.pending := foldl_pending s State.reconcile_pending _

/-! ### The operations of requests -/

/-- A request behind the pool check, whether it is refused or taken (R29). -/
theorem afterPoolCheck_pending {written : State} (chosen : Source → Bool) {finish : State → State}
    (hwritten : written.pending = s.pending) (hfinish : ∀ t, (finish t).pending = t.pending) :
    (afterPoolCheck s (s.poolChecked written chosen) finish).2.pending = s.pending := by
  rw [afterPoolCheck_eq]
  split
  · rfl
  · simp [hfinish, hwritten]

@[simp] theorem placeOp_pending (src : Source) (st : StationId) (sv : Service) (level : Int) :
    (placeOp src st sv level s).2.pending = s.pending := by
  unfold placeOp
  dsimp only
  split
  · rfl
  · split
    · rfl
    · exact afterPoolCheck_pending s _ rfl fun t => t.takeUpDrive_pending src

@[simp] theorem moveOp_pending (src : Source) (st : StationId) : (moveOp src st s).2.pending = s.pending := by
  unfold moveOp
  dsimp only
  split
  · rfl
  · split
    · rfl
    · split
      · rfl
      · split
        · rfl
        · exact afterPoolCheck_pending s _ rfl fun _ => rfl

@[simp] theorem retireOp_pending (src : Source) : (retireOp src s).2.pending = s.pending := by
  unfold retireOp
  dsimp only
  split
  · rfl
  · split
    · rfl
    · simp only [State.closeEvent_pending, State.takeUpDrive_pending, State.removeIfEmpty_pending]
      exact foldl_pending _ (fun t z => t.drop_pending (src, z)) _

@[simp] theorem setLevelOp_pending (src : Source) (level : Int) : (setLevelOp src level s).2.pending = s.pending := by
  unfold setLevelOp
  dsimp only
  split
  · rfl
  · split
    · rfl
    · simp

@[simp] theorem setGateModeOp_pending (src : Source) (m : GateMode) :
    (setGateModeOp src m s).2.pending = s.pending := by
  unfold setGateModeOp
  dsimp only
  split
  · rfl
  · split
    · simp
    · rfl

@[simp] theorem setStationOp_pending (st : StationId) (position : Point) (reach : ZoneSet) :
    (setStationOp st position reach s).2.pending = s.pending := by
  unfold setStationOp
  dsimp only
  split
  · rfl
  · split
    · exact afterPoolCheck_pending s _ rfl fun _ => rfl
    · split
      · simp
      · rfl

@[simp] theorem setZoneOp_pending (z : Zone) (r : ZoneRecord) : (setZoneOp z r s).2.pending = s.pending := by
  unfold setZoneOp
  dsimp only
  split
  · exact afterPoolCheck_pending s _ rfl fun _ => rfl
  · split
    · simp
    · rfl

@[simp] theorem setAreaOp_pending (a : AreaId) (mode : AreaMode) : (setAreaOp a mode s).2.pending = s.pending := by
  unfold setAreaOp
  split
  · rfl
  · exact afterPoolCheck_pending s _ rfl fun _ => rfl

@[simp] theorem reportTemperature_pending (t : Int) : (reportTemperature t s).pending = s.pending := by
  unfold reportTemperature
  dsimp only
  split
  · simp
  · rfl

@[simp] theorem setSourceOp_pending (src : Source) (r : SourceRecord) : (setSourceOp src r s).pending = s.pending := by
  rw [setSourceOp_eq]

@[simp] theorem State.wake_pending : s.wake.pending = s.pending := by
  unfold State.wake
  dsimp only
  split
  · rfl
  · rfl
  · simp

@[simp] theorem State.beginStandby_pending : s.beginStandby.pending = s.pending := by
  unfold State.beginStandby
  split <;> rfl

@[simp] theorem State.afterCause_pending : s.afterCause.pending = s.pending := by
  unfold State.afterCause
  split <;> rfl

@[simp] theorem State.placeNotch_pending (src : Source) (n : Notch) : (s.placeNotch src n).pending = s.pending := by
  rw [State.placeNotch_eq]
  rfl

/-! ### Cue Lines -/

/-- A cue action is the operation of a request (R130). -/
@[simp] theorem CueAction.perform_pending (a : CueAction) : (a.perform s).2.pending = s.pending := by
  cases a with
  | none => rfl
  | place src st sv level => exact placeOp_pending s src st sv level
  | move src st => exact moveOp_pending s src st
  | retire src => exact retireOp_pending s src
  | gateMode src m => exact setGateModeOp_pending s src m
  | wake => exact s.wake_pending

@[simp] theorem State.recordAction_pending (l : Line) (result : ResultCode) :
    (s.recordAction l result).pending = s.pending := by
  unfold State.recordAction
  dsimp only
  split <;> rfl

@[simp] theorem State.debouncedChange_pending (l : Line) : (s.debouncedChange l).pending = s.pending := by
  unfold State.debouncedChange
  dsimp only
  split
  · rfl
  · split
    · rw [State.recordAction_pending, CueAction.perform_pending]
      rfl
    · rfl

@[simp] theorem State.foldl_debouncedChange_pending (l : List Line) :
    (l.foldl State.debouncedChange s).pending = s.pending := foldl_pending s State.debouncedChange_pending l

@[simp] theorem setTimingOp_pending (new : Timing) : (setTimingOp new s).pending = s.pending := by
  unfold setTimingOp
  split
  · rfl
  · exact State.foldl_debouncedChange_pending _ allLines

/-! ### Gates and feeds in their courses -/

theorem State.evaluateBlock_pending : s.evaluateBlock.pending = s.pending := by
  unfold State.evaluateBlock
  split
  · obtain ⟨C, D, e, -⟩ := s.foldl_evaluateChannel
    rw [State.closeEvent_pending, e]
  · rfl

theorem State.expireHold_pending (src : Source) : (s.expireHold src).pending = s.pending := by
  unfold State.expireHold
  dsimp only
  split
  · simp
  · rfl

theorem State.completeOpening_pending (src : Source) : (s.completeOpening src).pending = s.pending := by
  unfold State.completeOpening
  split
  · split
    · simp
    · rfl
  · rfl

theorem State.completeClosing_pending (src : Source) : (s.completeClosing src).pending = s.pending := by
  unfold State.completeClosing
  split
  · split
    · simp
    · rfl
  · rfl

theorem State.completeTrim_pending (src : Source) : (s.completeTrim src).pending = s.pending := by
  unfold State.completeTrim
  dsimp only
  split <;> rfl

theorem State.completeGlide_pending (k : FeedKey) : (s.completeGlide k).pending = s.pending := by
  unfold State.completeGlide
  split
  · split
    · simp
    · rfl
  · rfl

theorem State.completeFadeIn_pending (k : FeedKey) : (s.completeFadeIn k).pending = s.pending := by
  unfold State.completeFadeIn
  split
  · split
    · split
      · simp
      · rfl
    · rfl
  · rfl

theorem State.completeFadeOut_pending (k : FeedKey) : (s.completeFadeOut k).pending = s.pending := by
  unfold State.completeFadeOut
  split
  · split
    · split
      · simp
      · rfl
    · rfl
  · rfl

theorem State.completeGain_pending (k : FeedKey) : (s.completeGain k).pending = s.pending := by
  unfold State.completeGain
  split
  · split <;> rfl
  · rfl

theorem State.derive_pending : s.derive.pending = s.pending := by
  unfold State.derive
  split
  · rfl
  · dsimp only
    split
    · rw [State.closeEvent_pending]
      split
      · rfl
      · rw [State.deriveFeed_eq]
        rfl
    · rw [State.closeEvent_pending]

theorem State.completeMute_pending (z : Zone) : (s.completeMute z).pending = s.pending := by
  unfold State.completeMute
  dsimp only
  split <;> rfl

/-! ### Notches and detectors -/

theorem State.handOver_pending (src : Source) (b : Band) : (s.handOver src b).pending = s.pending := by
  obtain ⟨flags, e, -⟩ := (s.setDetector src (vget s.detectors src).endRun).handleCandidate_eq src b
  rw [State.handOver, e]
  rfl

theorem State.endWindow_pending : s.endWindow.pending = s.pending := by
  by_cases h : 1024 ≤ s.windowCount
  · obtain ⟨flags, e, -⟩ := State.endWindow_eq h
    rw [e]
  · rw [State.endWindow, if_neg h]

theorem State.ageStep_pending (src : Source) (n : Notch) : (s.ageStep src n).pending = s.pending := by
  unfold State.ageStep
  split <;> rfl

theorem State.ageNotch_pending (src : Source) (n : Notch) : (s.ageNotch src n).pending = s.pending := by
  unfold State.ageNotch
  split
  · split
    · exact s.ageStep_pending src n
    · rfl
  · rfl

theorem State.ageTable_pending (src : Source) : (s.ageTable src).pending = s.pending :=
  foldl_pending s (fun t n => t.ageNotch_pending src n) _

theorem State.advanceAging_pending : s.advanceAging.pending = s.pending := by
  unfold State.advanceAging
  split
  · have htables := foldl_pending s State.ageTable_pending allSources
    generalize allSources.foldl State.ageTable s = t at htables ⊢
    exact htables
  · rfl

theorem State.completeSection_pending (src : Source) (i : SectionSlot) :
    (s.completeSection src i).pending = s.pending := by
  unfold State.completeSection
  dsimp only
  split
  · split <;> rfl
  · rfl

/-! ### Service control and the clock -/

theorem State.endEntry_pending : s.endEntry.pending = s.pending := by
  unfold State.endEntry
  split
  · rw [State.completeEntry_eq, State.closeEvent_pending]
    exact foldl_pending _ State.removeIfEmpty_pending _
  · rfl

theorem State.completeServiceRamp_pending : s.completeServiceRamp.pending = s.pending := by
  unfold State.completeServiceRamp
  split <;> rfl

theorem State.clear_pending (cause : RestartCause) (pins : Byte) : (s.clear cause pins).pending = s.pending := by
  rw [State.clear_eq]
  rfl

theorem State.changeClock_pending (target : ClockState) (gain : Rat) :
    (s.changeClock target gain).pending = s.pending := by
  unfold State.changeClock
  dsimp only
  split <;> rfl

theorem State.switchChange_pending : s.switchChange.pending = s.pending := by
  unfold State.switchChange
  split
  · split
    · rfl
    · exact s.changeClock_pending _ _
  · rfl

theorem State.switchComplete_pending : s.switchComplete.pending = s.pending := by
  unfold State.switchComplete
  split <;> rfl

theorem State.startLock_pending : s.startLock.pending = s.pending := by
  unfold State.startLock
  split <;> rfl

theorem State.lockChange_pending : s.lockChange.pending = s.pending := by
  unfold State.lockChange
  split
  · exact s.changeClock_pending _ _
  · rfl

theorem State.loseClock_pending : s.loseClock.pending = s.pending := by
  unfold State.loseClock
  split
  · split
    · exact s.changeClock_pending _ _
    · rfl
  · rfl

theorem State.arrival_pending (interval : Rat) : (s.arrival interval).pending = s.pending := by
  unfold State.arrival
  dsimp only
  split
  · rfl
  · split <;> rfl
  · split
    · rfl
    · split
      · rfl
      · split
        · exact s.lockChange_pending
        · split
          · exact State.startLock_pending _
          · rfl

theorem State.missFrame_pending : s.missFrame.pending = s.pending := by
  unfold State.missFrame
  dsimp only
  split
  · rfl
  · split <;> rfl
  · split
    · exact State.loseClock_pending _
    · rfl

/-! ### The frame -/

theorem State.takeDueChannel_pending (src : Source) : (s.takeDueChannel src).pending = s.pending := by
  unfold State.takeDueChannel
  rw [foldl_pending _ (fun t i => t.completeSection_pending src i), State.completeTrim_pending,
    State.completeClosing_pending, State.completeOpening_pending]

theorem State.takeDueFeed_pending (k : FeedKey) : (s.takeDueFeed k).pending = s.pending := by
  unfold State.takeDueFeed
  rw [State.completeFadeOut_pending, State.completeFadeIn_pending, State.completeGain_pending,
    State.completeGlide_pending]

theorem State.takeDue_pending : s.takeDue.pending = s.pending := by
  rw [State.takeDue_eq, State.advanceAging_pending, State.endWindow_pending, State.evaluateBlock_pending,
    foldl_pending _ State.completeMute_pending, foldl_pending _ State.takeDueFeed_pending,
    foldl_pending _ State.takeDueChannel_pending, State.completeServiceRamp_pending, State.endEntry_pending,
    State.switchComplete_pending, State.switchChange_pending]

theorem State.frame_pending (input : Vector Sample 16) : (s.frame input).pending = s.pending := by
  obtain ⟨portA, portB, e⟩ := s.frame_eq input
  rw [e]
  rfl

/-! ### Every command -/

/-- An answer that is a next state with the commands that wait left alone. -/
def Runs (s : State) (a : Answer) : Prop := ∃ t, a = .next t ∧ t.pending = s.pending

section
variable {s}

theorem runs_next {t : State} (h : t.pending = s.pending) : Runs s (.next t) := ⟨t, rfl, h⟩

/-- The rise of chip select on any bytes, where the owning rule leaves the waiting commands (R148, R151). -/
theorem onRise_runs {act : State → Reply} (received : List Byte) (h : (act s).2.2.pending = s.pending) :
    Runs s (onRise received s act) := by
  unfold onRise
  dsimp only
  split
  · split
    · exact runs_next rfl
    · exact runs_next h
  · exact runs_next rfl

theorem onRequest_runs {i : Instr} {act : State → Reply} (h : (act s).2.2.pending = s.pending) :
    Runs s (onRequest i s act) := onRise_runs _ h

end

/-- A request runs, whatever its payload. -/
theorem exec_request_runs {i : Instr} {code : Byte} (h : requestCode i = some code) : Runs s (exec i s) := by
  cases i with dsimp only [exec]
  | restart =>
    refine runs_next ?_
    split <;> rfl
  | nop | identify | ackEvents | setEventMask | getClock | getAlignment | getTiming | listLimited | getPool
  | getMeters | getZoneMeters | getCueStatus => exact onRequest_runs rfl
  | getCause => exact onRequest_runs s.afterCause_pending
  | standby => exact onRequest_runs s.beginStandby_pending
  | wake => exact onRequest_runs s.wake_pending
  | setTemperature temperature => exact onRequest_runs (reportTemperature_pending s _)
  | setClock | getZone | getArea | findAtStation | getSource | clearDynamic | setCue =>
    refine onRequest_runs ?_
    split <;> rfl
  | listNotches source =>
    refine onRequest_runs ?_
    dsimp only
    split <;> rfl
  | getStation | getPlacement | getFeed | editNotch | retireNotch =>
    refine onRequest_runs ?_
    split
    · split <;> rfl
    · rfl
  | clearStation station =>
    refine onRequest_runs ?_
    split
    · split
      · rfl
      · split <;> rfl
    · rfl
  | addNotch source band depth =>
    refine onRequest_runs ?_
    split
    · split
      · rfl
      · split
        · rfl
        · exact s.placeNotch_pending _ _
    · rfl
  | setStation | setZone | setTiming | place | move | setLevel | retire | setSource | setGateMode =>
    refine onRequest_runs ?_
    split
    · simp [bare, accept]
    · rfl
  | setArea area mode service =>
    refine onRequest_runs ?_
    split
    · split
      · rfl
      · exact setAreaOp_pending s _ _
    · rfl
  | _ => cases h

/-- An event runs, whatever it happens to. -/
theorem exec_event_runs {i : Instr} (h : requestCode i = none) : Runs s (exec i s) := by
  cases i with dsimp only [exec]
  | audioFrame input =>
    refine runs_next ?_
    split
    · exact (State.frame_pending _ input).trans s.takeDue_pending
    · rfl
  | frameRejected received =>
    unfold execFrameRejected
    split
    · exact onRise_runs received rfl
    · exact runs_next rfl
  | powerOnReset pins => exact runs_next rfl
  | resetPin =>
    refine runs_next ?_
    dsimp only
    split <;> rfl
  | clearing pins =>
    refine runs_next ?_
    split
    · split
      · exact s.clear_pending _ _
      · rfl
    · rfl
  | transactionStart =>
    refine runs_next ?_
    split <;> rfl
  | derivation => exact runs_next s.derive_pending
  | glideComplete source zone => exact runs_next (s.completeGlide_pending _)
  | fadeInComplete source zone => exact runs_next (s.completeFadeIn_pending _)
  | fadeOutComplete source zone => exact runs_next (s.completeFadeOut_pending _)
  | gainMovementComplete source zone => exact runs_next (s.completeGain_pending _)
  | blockEvaluation => exact runs_next s.evaluateBlock_pending
  | holdExpiry source => exact runs_next (s.expireHold_pending source)
  | openingComplete source => exact runs_next (s.completeOpening_pending source)
  | closingComplete source => exact runs_next (s.completeClosing_pending source)
  | trimRampComplete source => exact runs_next (s.completeTrim_pending source)
  | muteRampComplete zone => exact runs_next (s.completeMute_pending zone)
  | windowEnd => exact runs_next s.endWindow_pending
  | ringCandidate source band =>
    refine runs_next ?_
    split
    · exact s.handOver_pending source band
    · rfl
  | agingAdvance => exact runs_next s.advanceAging_pending
  | agingStep source band =>
    refine runs_next ?_
    split
    · split
      · exact s.ageStep_pending source _
      · rfl
    · rfl
  | sectionMovementComplete source slot => exact runs_next (s.completeSection_pending source slot)
  | debouncedChange line => exact runs_next (s.debouncedChange_pending line)
  | cuePinSample pins => exact runs_next (s.foldl_debouncedChange_pending allLines)
  | frameSyncArrival interval => exact runs_next (s.arrival_pending interval)
  | missedFrame => exact runs_next s.missFrame_pending
  | presenceCountFull => exact runs_next s.startLock_pending
  | lockChange => exact runs_next s.lockChange_pending
  | clockLoss => exact runs_next s.loseClock_pending
  | switchChange => exact runs_next s.switchChange_pending
  | switchComplete => exact runs_next s.switchComplete_pending
  | standbyEntryComplete => exact runs_next s.endEntry_pending
  | serviceRampComplete => exact runs_next s.completeServiceRamp_pending
  | _ => cases h

/-- Settles O2: every request and every event answers a next state that leaves the waiting commands (log 1). -/
theorem everyCommandRuns : Obligations.EveryCommandRuns := by
  unfold Obligations.EveryCommandRuns
  intro i s
  cases hcode : requestCode i with
  | some code => exact exec_request_runs s hcode
  | none => exact exec_event_runs s hcode

end Sys2Proof.Machine
end

section
/-! ## The length of a response

A rule's accepted payload has the length that the table of spec 12 gives the request's code; a rule that only acts answers
without a payload. -/

namespace Sys2Proof.Machine

/-! ### Fields and records as bytes -/

@[simp] theorem halfBytes_length (h : Half) : (halfBytes h).length = 2 := rfl
@[simp] theorem intBytes_length (x : Int) : (intBytes x).length = 2 := rfl
@[simp] theorem natBytes_length (n : Nat) : (natBytes n).length = 2 := rfl
@[simp] theorem zoneSetBytes_length (z : ZoneSet) : (zoneSetBytes z).length = 3 := rfl
@[simp] theorem sourceSetBytes_length (f : Source → Bool) : (sourceSetBytes f).length = 2 := rfl
@[simp] theorem pointFieldBytes_length (p : Point) : (pointFieldBytes p).length = 6 := rfl

@[simp] theorem tapBytes_length (tap : Option Nat) : (tapBytes tap).length = 2 := by
  cases tap <;> rfl

/-- Records of one length, one after another. -/
theorem length_flatMap_const {α : Type} {f : α → List Byte} {n : Nat} (h : ∀ x, (f x).length = n) (l : List α) :
    (l.flatMap f).length = n * l.length := by
  simp [List.length_flatMap, h, mul_comm]

@[simp] theorem stationBytes_length (st : Station) : (stationBytes st).length = 9 := by simp [stationBytes]

@[simp] theorem zoneBytes_length (z : ZoneRecord) : (zoneBytes z).length = 19 := by simp [zoneBytes]

@[simp] theorem areaBytes_length (a : AreaMode) (members : ZoneSet) : (areaBytes a members).length = 5 := by
  cases a <;> simp [areaBytes]

@[simp] theorem timingBytes_length (t : Timing) : (timingBytes t).length = 9 := by simp [timingBytes]

@[simp] theorem placementBytes_length (p : Placement) (feeds : ZoneSet) : (placementBytes p feeds).length = 8 := by
  simp [placementBytes]

@[simp] theorem feedBytes_length (f : Feed) (queued : Bool) : (feedBytes f queued).length = 17 := by simp [feedBytes]

@[simp] theorem sourceBytes_length (r : SourceRecord) : (sourceBytes r).length = 15 := by simp [sourceBytes]

theorem notchBytes_length (n : Notch) : (notchBytes n).length = 6 := by simp [notchBytes]

@[simp] theorem clockBytes_length (c : ClockUnit) : (clockBytes c).length = 4 := rfl

section
variable (s : State)

@[simp] theorem State.causeBytes_length : s.causeBytes.length = 3 := by
  unfold State.causeBytes
  split <;> rfl

@[simp] theorem State.limitedBytes_length : s.limitedBytes.length = 49 := by
  unfold State.limitedBytes
  rw [List.length_append, length_flatMap_const fun _ => zoneSetBytes_length _]
  rfl

@[simp] theorem State.poolBytes_length : s.poolBytes.length = 6 := rfl

@[simp] theorem State.alignmentBytes_length : s.alignmentBytes.length = 6 := by simp [State.alignmentBytes]

@[simp] theorem State.meterBytes_length : s.meterBytes.length = 48 :=
  length_flatMap_const (n := 3) (fun _ => by simp) allSources

@[simp] theorem State.zoneMeterBytes_length : s.zoneMeterBytes.length = 72 :=
  length_flatMap_const (n := 3) (fun _ => by simp) allZones

@[simp] theorem State.cueStatusBytes_length : s.cueStatusBytes.length = 32 :=
  length_flatMap_const (n := 4) (fun _ => rfl) allLines

end

/-! ### Every request's rule -/

/-- An answer of a rule whose payload, where it accepts, has a length. -/
def Reply.HasLength (n : Nat) (r : Reply) : Prop := r.1 = .ok → r.2.1.length = n

theorem Reply.HasLength.of_length {n : Nat} {r : Reply} (h : r.2.1.length = n) : Reply.HasLength n r := fun _ => h

theorem Reply.HasLength.refuse {n : Nat} {s : State} {code : ResultCode} (h : code ≠ .ok) :
    Reply.HasLength n (refuse s code) := fun he => absurd he h

/-- A request answered on every part by one rule, whose accepted payload has the length of the table. -/
def AnsweredAtLength (i : Instr) (code : Byte) (run : State → Answer) : Prop :=
  ∃ act : State → Reply, (∀ s, run s = onRequest i s act) ∧
    ∀ n, responseLength code.toNat = some n → ∀ s, Reply.HasLength n (act s)

theorem AnsweredAtLength.of_table {i : Instr} {code : Byte} {run : State → Answer} {act : State → Reply} {n : Nat}
    (htable : responseLength code.toNat = some n) (he : ∀ s, run s = onRequest i s act)
    (hact : ∀ s, Reply.HasLength n (act s)) : AnsweredAtLength i code run :=
  ⟨act, he, fun m hm => by
    cases htable.symm.trans hm
    exact hact⟩

/-- Every request but RESTART, which forms no response, is answered with a payload of the table's length. -/
theorem exec_answeredAtLength {i : Instr} {code : Byte} (h : requestCode i = some code) (hrestart : i ≠ .restart) :
    AnsweredAtLength i code (exec i) := by
  show AnsweredAtLength i code fun s => exec i s
  cases i with (cases h <;> dsimp only [exec])
  | restart => exact absurd rfl hrestart
  | nop | identify | ackEvents | setEventMask | standby | wake | setTemperature =>
    exact .of_table rfl (fun _ => rfl) fun _ => .of_length rfl
  | setClock | setStation | setZone | setTiming | place | move | setLevel | retire | setSource | setGateMode
  | clearDynamic | setCue =>
    refine .of_table rfl (fun _ => rfl) fun s => .of_length ?_
    split <;> rfl
  | setArea | editNotch | retireNotch =>
    refine .of_table rfl (fun _ => rfl) fun s => .of_length ?_
    split
    · split <;> rfl
    · rfl
  | clearStation | addNotch =>
    refine .of_table rfl (fun _ => rfl) fun s => .of_length ?_
    split
    · split
      · rfl
      · split <;> rfl
    · rfl
  | getCause | getClock | getAlignment | getTiming | listLimited | getPool | getMeters | getZoneMeters
  | getCueStatus => exact .of_table rfl (fun _ => rfl) fun _ => .of_length (by simp [readOut])
  | getZone | getArea | findAtStation | getSource =>
    refine .of_table rfl (fun _ => rfl) fun s => ?_
    split
    · exact .of_length (by simp [readOut])
    · exact .refuse (by decide)
  | getStation | getPlacement | getFeed =>
    refine .of_table rfl (fun _ => rfl) fun s => ?_
    split
    · split
      · exact .of_length (by simp [readOut])
      · exact .refuse (by decide)
    · exact .refuse (by decide)
  | listNotches source => exact ⟨_, fun _ => rfl, fun n hn => by cases hn⟩

/-- The payload of LIST_NOTCHES: the count, the saturation mark and six bytes a record (R113; spec 12, Notch table). -/
theorem exec_listNotches_length {s t : State} {source : Byte} {src : Source} (htakes : s.takesRequest = true)
    (hsource : source.toNat = src.val) (ht : exec (.listNotches source) s = .next t) :
    t.link.response.payload.length = 2 + 6 * (vget s.notches src).length := by
  rw [exec_listNotches htakes hsource] at ht
  cases ht
  rw [State.respond, List.length_append, length_flatMap_const notchBytes_length]
  rfl

/-- Settles O8: the response is formed of the request's code and its rule's answer, whose refusals are empty (O7) and whose
accepted payloads have the lengths of the table (R150, R169). -/
theorem responseShape : Obligations.ResponseShape := by
  unfold Obligations.ResponseShape
  intro i code s t hcode hrestart htakes ht
  obtain ⟨act, hexec, hlength⟩ := exec_answeredAtLength hcode hrestart
  have hformed : t = (act s).2.2.respond (act s).1 code (act s).2.1 := by
    rw [hexec, onRequest_taken hcode act htakes] at ht
    cases ht
    rfl
  refine ⟨?echo, ?transaction, ?buffer, fun hne => ?refused, fun hok n hn => ?accepted,
    fun source hi src hsource => ?notches⟩
  case echo | transaction | buffer => rw [hformed, State.respond]
  case refused => rw [refusalChangesNothing i code s t hcode hrestart htakes ht hne, State.respond]
  case accepted =>
    subst hformed
    exact hlength n hn s hok
  case notches =>
    subst hi
    exact exec_listNotches_length htakes hsource ht

end Sys2Proof.Machine
end
